-- ==== Sys2Proof/Word.lean ====
section
/-! DEFINITION. The widths the manual counts in (R3, R5, R103) and the sparse maps the state is written with. -/

namespace Sys2Proof

/-- A byte of memory (R3). -/
abbrev Byte := BitVec 8

/-- The width of a vector or uniform register (R61). -/
abbrev Word := BitVec 32

/-- A register pair, an address, a word address or a 64-bit system register (R69, R81, R329). -/
abbrev DWord := BitVec 64

/-- A 32-byte sector of memory (R182). -/
abbrev Sector := BitVec 256

/-- Finite data over numbered places, zero wherever nothing is listed. The one canonical form is: keys strictly
rising, no listed value zero (`Sys2Proof.Machine.SMap.wf`). -/
abbrev SMap (w : Nat) := List (Nat × BitVec w)

end Sys2Proof
end

