-- ==== Sys2Proof/Syntax.lean ====
section
/-! DEFINITION. The steps of the Ranion package: every instruction word of the opcode map (R343) in the shape of its
form (R331), and every event of the table of steps. An event has no encoding: it reaches the machine through
`State.agenda`. -/

namespace Sys2Proof

/-- A 9-bit operand specifier (R65); the same nine bits also carry the plain numbers that MMAD, BAR, TLD and MOVX
hold in an operand field, as `v n`. -/
inductive Opnd where
  | v (n : Fin 384)
  | s (n : Fin 64)
  | k (n : Fin 4)
  | zero
  | lane
  | slot
  /-- Codes 455 to 511. -/
  | res (n : Fin 57)
  deriving DecidableEq, Repr

/-- A type field (R339). -/
inductive Ty where
  | i8 | i16 | i32 | i64 | n8 | n16 | n32 | n64
  | f32 | f16 | bf16 | e4m3 | e5m2 | e2m1 | resE | resF
  deriving DecidableEq, Repr

/-- A rounding code (R115). -/
inductive Rnd where
  | rne | rz | ru | rd
  deriving DecidableEq, Repr

/-- A role (R49), coded as ROLEINFO.ROLE. -/
inductive Role where
  | gen | copy | feed | epi
  deriving DecidableEq, Repr

/-- The control field (R332); its reserved bits are zero in every word that decodes. -/
structure Ctl where
  alloc : BitVec 3
  wait : BitVec 7
  yld : Bool
  keep : Bool
  deriving DecidableEq, Repr

/-- A guard (R333). -/
structure Guard where
  neg : Bool
  pred : BitVec 4
  deriving DecidableEq, Repr

/-- A form F word (R334) with the common MOD fields of R340. -/
structure FForm where
  ctl : Ctl
  g : Guard
  d : Opnd
  nwb : Bool
  a : Opnd
  b : Opnd
  c : Opnd
  ty : Ty
  ty2 : Ty
  rm : Rnd
  sat : Bool
  sub : BitVec 12
  deriving DecidableEq, Repr

/-- A form I word (R335). -/
structure IForm where
  ctl : Ctl
  g : Guard
  d : Opnd
  nwb : Bool
  a : Opnd
  mod9 : BitVec 9
  imm : Word
  deriving DecidableEq, Repr

/-- The operations of form P (R337). -/
inductive PairOp where
  | fadd | fmul | fmac | fmin | fmax
  | add | sub | mul | and | or | xor | shl | shr | min | max | mac
  | mov
  deriving DecidableEq, Repr

/-- One 38-bit half of a form P word (R337). -/
structure PHalf where
  op : PairOp
  d : Opnd
  nwb : Bool
  a : Opnd
  b : Opnd
  g : BitVec 3
  deriving DecidableEq, Repr

/-- The fields of LOOP (R345). -/
structure LoopForm where
  ctl : Ctl
  lvl : BitVec 2
  cnt : Opnd
  endOff : BitVec 16
  rotb : BitVec 6
  rots : BitVec 4
  stg : BitVec 3
  deriving DecidableEq, Repr

/-- The fields of JOIN (R345, R413). -/
structure JoinForm where
  ctl : Ctl
  ar : Bool
  p : BitVec 4
  m : Opnd
  t : Opnd
  deriving DecidableEq, Repr

/-- What one other member brings to a collective (R391): its record's fields, its buffer's elements, and those of them
that are poisoned (R285). -/
structure CollPeer where
  op : Nat
  alg : Nat
  ty : Nat
  elems : Nat
  members : Nat
  data : List Word
  marks : List Nat
  deriving DecidableEq, Repr

/-- The unit an uncorrectable error marks (R285). -/
inductive PoisonUnit where
  | memory (sector : Nat)
  /-- A sector that a cohort's slices hold of another package (R188). -/
  | foreignWay (cohort : Nat) (sector : Nat)
  /-- A flit that carries the n-th posted write of a slot. -/
  | posted (core : Nat) (slot : Nat) (n : Nat)
  | l1 (core : Nat) (sector : Nat)
  /-- The sectors of a core's transaction region that hold the n-th read or write entry of a slot (R185, R241). -/
  | txRead (core : Nat) (slot : Nat) (n : Nat)
  | txWrite (core : Nat) (slot : Nat) (n : Nat)
  | xbuf (core : Nat) (sector : Nat)
  | wbuf (core : Nat) (unit : Nat)
  | tileRow (core : Nat) (tile : Nat) (row : Nat)
  | pending (core : Nat) (slot : Nat) (tag : Nat)
  | register (core : Nat) (slot : Nat) (reg : Nat)
  deriving DecidableEq, Repr

/-- The four kinds of leaky-bucket counter (R288, R289). -/
inductive CounterKind where
  | bank | lane | cohort | laneGroup
  deriving DecidableEq, Repr

/-- Who writes registers: the requesters of MGSEM, which are the two MCTP ports and the package kernel (R322), and the
security core (R22, R294). -/
inductive Requester where
  | mctpPcie | mctpI3c | kernel | security
  deriving DecidableEq, Repr

/-- Where an SPDM request comes from (R318): a CXL port, an MCTP port, or a pod peer over the scale-up ports. -/
inductive SpdmPath where
  | cxl (port : Fin 4)
  | mctpPcie
  | mctpI3c
  | pod (pkg : BitVec 10)
  deriving DecidableEq, Repr

/-- An image's signature (R315): the digest of its verifying key, and whether it verifies under that key. -/
structure ImageSignature where
  key : BitVec 256
  sigOk : Bool
  deriving DecidableEq, Repr

/-- An image as the security core finds it (R315): its digest, its signature, and its security version. -/
structure BootImage where
  digest : BitVec 256
  signature : ImageSignature
  version : Nat
  deriving DecidableEq, Repr

/-- How a message of a borrower comes (R304): over a session with an attested package, and over an IDE stream. -/
structure Session where
  attested : Bool
  ide : Bool
  deriving DecidableEq, Repr

/-- A borrower's refusal of the offer of an extent (R299). -/
structure LeaseAnswer where
  extent : Fin 8192
  session : Session
  deriving DecidableEq, Repr

/-- A release message (R297, R301): the lender's extent and the package that sends it. -/
structure ReleaseNotice where
  extent : Fin 8192
  sender : BitVec 16
  deriving DecidableEq, Repr

/-- What an offer allows the borrower: reads and writes (R296). -/
structure Grant where
  pr : Bool
  pw : Bool
  deriving DecidableEq, Repr

/-- The figures of a health update that come from outside (R323): remaining life, LP6 wear and link margins. -/
structure HealthFigures where
  eol : List (BitVec 16)
  lp6 : List (BitVec 64)
  margin : List (BitVec 16)
  deriving DecidableEq, Repr

/-- The address of a host access, and whether a device asks rather than a host core (R210). -/
structure HostAddress where
  device : Bool
  addr : DWord
  deriving DecidableEq, Repr

/-- The alarm sources (R319), by their ALARMSTAT bits. -/
inductive AlarmSource where
  | volt | clk | lid | debug
  deriving DecidableEq, Repr

/-- What a request to memory asks for (R210, R304, R312 to R314); an atomic carries its operation (R365), type, operand
and, for CAS, the value it stores. -/
inductive ReqKind where
  | read (bytes : Nat)
  | write (data : List Byte)
  | atomic (aop : Fin 10) (ty : Ty) (operand new : DWord)
  deriving DecidableEq, Repr

/-- A CXL.mem request of a borrower (R304), and whether it comes over an IDE stream. -/
structure CxlRequest where
  req : ReqKind
  ide : Bool
  deriving DecidableEq, Repr

/-- One step of the package: a row of opcode_table.json. -/
inductive Instr where
  -- class 0x0
  | abs (w : FForm)
  | add (w : FForm)
  | addImm (w : IForm)
  | and (w : FForm)
  | andImm (w : IForm)
  | bfi (w : FForm)
  | bfx (w : FForm)
  | brev (w : FForm)
  | clz (w : FForm)
  | cmp (w : FForm)
  | lea (w : FForm)
  | mad (w : FForm)
  | max (w : FForm)
  | maxImm (w : IForm)
  | min (w : FForm)
  | minImm (w : IForm)
  | mul (w : FForm)
  | mulImm (w : IForm)
  | not (w : FForm)
  | or (w : FForm)
  | orImm (w : IForm)
  | popc (w : FForm)
  | sel (w : FForm)
  | sha (w : FForm)
  | shaImm (w : IForm)
  | shl (w : FForm)
  | shlImm (w : IForm)
  | shr (w : FForm)
  | shrImm (w : IForm)
  | sub (w : FForm)
  | subImm (w : IForm)
  | xor (w : FForm)
  | xorImm (w : IForm)
  -- class 0x1
  | elect (w : FForm)
  | mov (w : FForm)
  | movi (w : IForm)
  | movx (w : FForm)
  | movxw (w : FForm)
  | nop (w : FForm)
  | plop (w : FForm)
  | srd (w : FForm)
  | swr (w : FForm)
  -- class 0x2
  | fadd (w : FForm)
  | faddImm (w : IForm)
  | fclass (w : FForm)
  | fcmp (w : FForm)
  | fcvt (w : FForm)
  | fdiv (w : FForm)
  | ffma (w : FForm)
  | fmax (w : FForm)
  | fmaxImm (w : IForm)
  | fmin (w : FForm)
  | fminImm (w : IForm)
  | fmul (w : FForm)
  | fmulImm (w : IForm)
  | frnd (w : FForm)
  -- class 0x3
  | cos (w : FForm)
  | ex2 (w : FForm)
  | lg2 (w : FForm)
  | rcp (w : FForm)
  | rsq (w : FForm)
  | sin (w : FForm)
  | sqrt (w : FForm)
  | tanh (w : FForm)
  -- class 0x4
  | matchLanes (w : FForm)
  | proj (w : FForm)
  | projl (w : FForm)
  | pushl (w : FForm)
  | redl (w : FForm)
  | shfl (w : FForm)
  | vote (w : FForm)
  -- class 0x5
  | ld (w : IForm)
  | ldw (w : IForm)
  | ldx (w : IForm)
  | st (w : IForm)
  | stx (w : IForm)
  | tld (w : IForm)
  -- class 0x6
  | atom (w : FForm)
  | atomx (w : FForm)
  | barArv (w : FForm)
  | barWt (w : FForm)
  | barSync (w : FForm)
  | cas (w : FForm)
  | fence (w : FForm)
  | red (w : FForm)
  | setfSt (w : FForm)
  | setfAdd (w : FForm)
  | waitf (w : FForm)
  | waitw (w : FForm)
  -- class 0x7
  | txb (w : IForm)
  | txe (w : FForm)
  | txa (w : IForm)
  | txq (w : FForm)
  -- class 0x8
  | coll (w : FForm)
  | emit (w : FForm)
  | pfetch (w : FForm)
  | tcpy (w : FForm)
  | tcpyResume (w : FForm)
  | tseal (w : FForm)
  | twait (w : FForm)
  -- class 0x9
  | accrd (w : FForm)
  | accwr (w : FForm)
  | bndset (w : FForm)
  | bndsetKh (w : FForm)
  | bndsetGet (w : FForm)
  | mbarArv (w : FForm)
  | mbarWt (w : FForm)
  | mbarSync (w : FForm)
  | mend (w : FForm)
  | mjmp (w : IForm)
  | mmad (w : IForm)
  | mstart (w : FForm)
  | mstartResume (w : FForm)
  | mzero (w : FForm)
  | mzeroAuto (w : FForm)
  | mzeroRns (w : FForm)
  -- class 0xA
  | rnscfgSet (w : FForm)
  | rnscfgGet (w : FForm)
  | rnschk (w : FForm)
  | rnsf (w : FForm)
  | rnsr (w : FForm)
  -- class 0xB
  | brx (w : FForm)
  | callx (w : FForm)
  | exit (w : FForm)
  | lbrk (w : FForm)
  | prio (w : FForm)
  | ret (w : FForm)
  | svc (w : IForm)
  | trap (w : IForm)
  | tret (w : FForm)
  | yield (w : FForm)
  -- form P
  | pair (ctl : Ctl) (x y : PHalf)
  -- form C
  | bra (ctl : Ctl) (g : Guard) (off : BitVec 24)
  | brm (ctl : Ctl) (pairs : List (Guard × BitVec 13))
  | call (ctl : Ctl) (g : Guard) (off : BitVec 24)
  | join (w : JoinForm)
  | loop (w : LoopForm)
  -- events inside a block
  | joinRelease (core slot : Nat)
  | joinTimeout (core slot : Nat)
  | crossLaneExecute (core slot : Nat)
  | stallWatchdog (core slot : Nat)
  | copyCommandEnd (id : Nat)
  | tierTimeout (id : Nat)
  | collStart (id : Nat) (peers : List CollPeer)
  | collTimeout (id : Nat)
  | txCommit (core slot : Nat)
  | flagWaitSatisfied (core slot : Nat)
  | resultArrival (core slot tag : Nat) (congestion : BitVec 2)
  | agePromotion (core slot : Nat)
  | congestionLevelExpiry (core quarter : Nat)
  | urgentReadMark (core quarter : Nat)
  | fresumeRetry (cmd : DWord)
  | fresumeKill (cmd : DWord)
  | stoppedSeqArrival (core : Nat) (barrier : Fin 32)
  | boundCacheEvict (cohort : Nat) (entry : BitVec 12)
  -- memory system
  | l1Eviction (core : Nat) (region : Nat)
  | lazyReleaseDrain (slice : Nat) (core : Nat)
  | postedWriteAck (core slot : Nat)
  | writebackEngine (slice : Nat)
  | pageWalk (core : Nat) (va : DWord) (store : Bool)
  | invdb (addr : DWord)
  | invalidationComplete
  | channelRetire (stack : Fin 16) (channel : Fin 32)
  -- dispatch
  | rqdb (queue : Fin 16) (addr : DWord)
  | routeStart (queue : Fin 16)
  | waypointEvaluate (route : Nat) (wp : Nat)
  | waypointComplete (route : Nat) (wp : Nat)
  | stallCounterTick
  | bind (addr : DWord)
  | bindResume (addr : DWord)
  | preemptdb (addr : DWord)
  | blockRetire (core : Nat)
  -- errors
  | uncorrectableError (unit : PoisonUnit)
  | correctedError (kind : CounterKind) (inst : Nat) (corepos : Word)
  | leakTick (kind : CounterKind) (inst : Nat)
  -- pod
  | memberLoss (pkg : BitVec 10)
  | podid (value : Word)
  | linkTraining (port : Fin 16) (peer : BitVec 10)
  | inboundRequest (src : BitVec 10) (key : BitVec 16) (addr : DWord) (req : ReqKind)
  -- lending
  | lendcmdOffer (cmd : DWord)
  | lendcmdRecall (cmd : DWord)
  | lendcmdFree (cmd : DWord)
  | leaseAccept (extent : Fin 8192) (session : Session)
  | leaseRefusal (answer : LeaseAnswer)
  | offerTimeout (extent : Fin 8192)
  | leaseRenewal (extent : Fin 8192)
  | leaseExpiry (extent : Fin 8192)
  | borrowerExpiry (entry : Fin 4096)
  | recallMessage (entry : Fin 4096)
  | borrowedExtentWrite (entry : Fin 4096) (value : BitVec 128)
  | releaseMessage (release : ReleaseNotice)
  | releaseAck (entry : Fin 4096)
  | recallDeadline (extent : Fin 8192)
  | backInvalidateSnoop (entry : Fin 4096) (line : Nat)
  | heartbeat (peer : BitVec 16)
  | heartbeatLoss (peer : BitVec 16)
  | leaseAcknowledgement (entry : Fin 4096) (sent : Nat) (term : BitVec 12) (grant : Grant) (ide : Bool)
  | cxlMemRequest (extent : Fin 8192) (borrower : BitVec 16) (offset : Nat) (request : CxlRequest)
  | fabricManagerElection (attested : List (BitVec 16))
  -- platform
  | bootStage (digest : BitVec 256) (signature : ImageSignature) (version : Nat)
  | mregExtend (reg : Fin 16) (digest : BitVec 256)
  | spdmRequest (requester : SpdmPath) (block : Nat)
  | tamperAlarm (source : AlarmSource)
  | mgsemAcq (requests : List Requester)
  | mgsemRel (requester : Requester)
  | mgsemTimeout
  | resetcmd (requester : Requester) (value : Word)
  | powerOnReset
  | hostCoreReset (image : BootImage)
  | clockUpdate (watts : List Nat) (junction : Nat)
  | thermalTrip
  | healthUpdate (figures : HealthFigures)
  | registerWrite (requester : Requester) (offset : Nat) (bytes : Nat) (value : BitVec 256)
  | hostCoreAccess (addr : HostAddress) (req : ReqKind)
  deriving DecidableEq, Repr

end Sys2Proof
end

