-- ==== Sys2Proof/Machine/Forms.lean ====
section
/-! DEFINITION. The field rules of every mnemonic (R334 to R345 and the entries of chapters 16 to 19): which types,
MOD bits, tags and operands a word may hold, which registers it names, and in what size. -/

namespace Sys2Proof

/-- The 9-bit code of a specifier (R65). -/
def Opnd.code : Opnd → BitVec 9
  | .v n => BitVec.ofNat 9 n.val
  | .s n => BitVec.ofNat 9 (384 + n.val)
  | .k n => BitVec.ofNat 9 (448 + n.val)
  | .zero => 452#9
  | .lane => 453#9
  | .slot => 454#9
  | .res n => BitVec.ofNat 9 (455 + n.val)

/-- The specifier of a 9-bit code (R65). -/
def Opnd.ofCode (c : BitVec 9) : Opnd :=
  if h : c.toNat < 384 then .v ⟨c.toNat, h⟩
  else if h : c.toNat < 448 then .s ⟨c.toNat - 384, by omega⟩
  else if h : c.toNat < 452 then .k ⟨c.toNat - 448, by omega⟩
  else if c.toNat = 452 then .zero
  else if c.toNat = 453 then .lane
  else if c.toNat = 454 then .slot
  else .res ⟨(c.toNat - 455) % 57, Nat.mod_lt _ (by decide)⟩

/-- What an operand field holds: a source, a destination, a destination that no uniform register may be, or a vector
base name that is neither (R439). -/
inductive UseKind where
  | src | dst | dstVector | baseName
  deriving DecidableEq, Repr

/-- One operand field of a word: its EXTRA number (R272), its specifier, its size in registers (3 is a residue group,
R69) and what it is for. -/
structure Use where
  field : Nat
  o : Opnd
  size : Nat
  kind : UseKind
  deriving DecidableEq, Repr

/-- A 64-bit integer type (R339). -/
def Ty.is64 (t : Ty) : Bool := t == .i64 || t == .n64

/-- Registers of an operand of a type (R69, R355, R399). -/
def Ty.regs (t : Ty) : Nat := if t.is64 then 2 else 1

/-- A signed integer type. -/
def Ty.signed : Ty → Bool
  | .i8 | .i16 | .i32 | .i64 => true
  | _ => false

/-- An integer type (R339). -/
def Ty.isInt : Ty → Bool
  | .i8 | .i16 | .i32 | .i64 | .n8 | .n16 | .n32 | .n64 => true
  | _ => false

/-- The bits of a type (R339). -/
def Ty.bits : Ty → Nat
  | .i8 | .n8 | .e4m3 | .e5m2 => 8
  | .i16 | .n16 | .f16 | .bf16 => 16
  | .i32 | .n32 | .f32 => 32
  | .i64 | .n64 => 64
  | .e2m1 => 4
  | .resE | .resF => 32

def int4 : List Ty := [.i32, .n32, .i64, .n64]
def nat2 : List Ty := [.n32, .n64]
def float3 : List Ty := [.f32, .f16, .bf16]
def float6 : List Ty := [.f32, .f16, .bf16, .e4m3, .e5m2, .e2m1]
def accTypes : List Ty := [.f32, .f16, .bf16, .e4m3, .e5m2]

/-- How a system register is reached (R81). -/
structure SysRegInfo where
  wide : Bool
  readOnly : Bool
  deriving DecidableEq, Repr

/-- The table of system registers (R81). -/
def sysRegInfo (n : Nat) : Option SysRegInfo :=
  if n = 0x000 || n = 0x001 then some ⟨false, false⟩
  else if n = 0x002 || n = 0x003 || n = 0x004 then some ⟨true, false⟩
  else if 0x010 ≤ n ∧ n ≤ 0x013 then some ⟨false, false⟩
  else if 0x014 ≤ n ∧ n ≤ 0x01B then some ⟨true, true⟩
  else if 0x01C ≤ n ∧ n ≤ 0x01F then some ⟨false, true⟩
  else if n = 0x040 || n = 0x041 || n = 0x042 || n = 0x044 then some ⟨false, true⟩
  else if n = 0x043 then some ⟨true, true⟩
  else none

/-- A 64-bit system register takes a pair (R81). -/
def sysRegRegs (n : Nat) : Nat := if (sysRegInfo n).any (·.wide) then 2 else 1

/-! ## The fields of MOD -/

def FForm.cond (w : FForm) : Nat := (w.sub.extractLsb' 9 3).toNat
def FForm.hi (w : FForm) : Bool := w.sub.getLsbD 8
def FForm.prd (w : FForm) : Nat := (w.sub.extractLsb' 0 4).toNat
def FForm.mode (w : FForm) : Nat := (w.sub.extractLsb' 9 3).toNat
def FForm.wj (w : FForm) : Nat := (w.sub.extractLsb' 6 3).toNat
def FForm.order (w : FForm) : Nat := (w.sub.extractLsb' 9 3).toNat
def FForm.scope (w : FForm) : Nat := (w.sub.extractLsb' 6 3).toNat
def FForm.aop (w : FForm) : Nat := (w.sub.extractLsb' 2 4).toNat
def FForm.bmode (w : FForm) : Nat := (w.sub.extractLsb' 0 2).toNat
def FForm.arv (w : FForm) : Bool := w.sub.getLsbD 10
def FForm.num5 (w : FForm) : Nat := (w.sub.extractLsb' 0 5).toNat
def FForm.subN (w : FForm) : Nat := w.sub.toNat

def Ty.code : Ty → BitVec 4
  | .i8 => 0 | .i16 => 1 | .i32 => 2 | .i64 => 3 | .n8 => 4 | .n16 => 5 | .n32 => 6 | .n64 => 7
  | .f32 => 8 | .f16 => 9 | .bf16 => 10 | .e4m3 => 11 | .e5m2 => 12 | .e2m1 => 13 | .resE => 14 | .resF => 15

def Ty.ofCode (c : BitVec 4) : Ty :=
  match c.toNat with
  | 0 => .i8 | 1 => .i16 | 2 => .i32 | 3 => .i64 | 4 => .n8 | 5 => .n16 | 6 => .n32 | 7 => .n64
  | 8 => .f32 | 9 => .f16 | 10 => .bf16 | 11 => .e4m3 | 12 => .e5m2 | 13 => .e2m1 | 14 => .resE | _ => .resF

def Rnd.code : Rnd → BitVec 2
  | .rne => 0 | .rz => 1 | .ru => 2 | .rd => 3

def Rnd.ofCode (c : BitVec 2) : Rnd :=
  match c.toNat with
  | 0 => .rne | 1 => .rz | 2 => .ru | _ => .rd

/-- Form I, class 0: TY, SAT and HI of MOD9 (R341). -/
def IForm.ty (w : IForm) : Ty := Ty.ofCode (w.mod9.extractLsb' 5 4)
def IForm.sat (w : IForm) : Bool := w.mod9.getLsbD 4
def IForm.hi (w : IForm) : Bool := w.mod9.getLsbD 3
def IForm.rm (w : IForm) : Rnd := Rnd.ofCode (w.mod9.extractLsb' 3 2)
/-- Form I, class 5: SIZE, TYPED, SX, PLC and LANE of MOD9 (R341). -/
def IForm.size (w : IForm) : Nat := (w.mod9.extractLsb' 6 3).toNat
def IForm.typed (w : IForm) : Bool := w.mod9.getLsbD 5
def IForm.sx (w : IForm) : Bool := w.mod9.getLsbD 4
def IForm.plc (w : IForm) : Bool := w.mod9.getLsbD 3
def IForm.lane (w : IForm) : Nat := (w.mod9.extractLsb' 0 3).toNat
/-- Registers of a data operand of SIZE (R415, R477). -/
def IForm.dataRegs (w : IForm) : Nat := if w.size = 4 then 4 else if w.size = 3 then 2 else 1

/-- The guard that a word without one must hold (R333). -/
def Guard.always (g : Guard) : Bool := !g.neg && g.pred == 0

/-! ## Checks shared by the entries. Each says which operand fields are in use; the others hold 452 (R334). -/

def Opnd.isVecOrZero : Opnd → Bool
  | .v _ | .zero => true
  | _ => false

def Opnd.is452 (o : Opnd) : Bool := o == .zero

/-- Operand fields in use, as (D, A, B, C). -/
def FForm.unusedOk (w : FForm) (d a b c : Bool) : Bool :=
  (d || w.d.is452) && (a || w.a.is452) && (b || w.b.is452) && (c || w.c.is452)

/-- TY2, RM and SAT are zero (R340). -/
def FForm.plain (w : FForm) : Bool := w.ty2 == .i8 && w.rm == .rne && !w.sat

/-- Every field of MOD is zero. -/
def FForm.mod0 (w : FForm) : Bool := w.ty == .i8 && w.plain && w.sub == 0

/-- A fixed-latency word with a result (R72, R78). -/
def FForm.fixedOk (w : FForm) (wide : Bool) : Bool :=
  w.ctl.alloc == 7 && (!w.nwb || (w.d.isVecOrZero && !wide))

/-- A word with no tag and no result (R72, R78). -/
def FForm.noTag (w : FForm) : Bool := w.ctl.alloc == 7 && !w.nwb

/-- A variable-latency word with a result (R72, R78). -/
def FForm.varOk (w : FForm) : Bool := w.ctl.alloc != 7 && !w.nwb

def IForm.fixedOk (w : IForm) (wide : Bool) : Bool :=
  w.ctl.alloc == 7 && (!w.nwb || (w.d.isVecOrZero && !wide))

def IForm.noTag (w : IForm) : Bool := w.ctl.alloc == 7 && !w.nwb

def IForm.varOk (w : IForm) : Bool := w.ctl.alloc != 7 && !w.nwb

/-- An integer word of form F (R354, R422, R467): its types, whether SAT, HI, COND and PRD may be set. -/
def FForm.intOk (w : FForm) (tys : List Ty) (sat hi cond prd : Bool) : Bool :=
  tys.contains w.ty && w.ty2 == .i8 && w.rm == .rne && (sat || !w.sat) && (hi || !w.hi) && !(w.sat && w.hi) &&
  (if cond then w.cond ≤ 5 else w.cond == 0) && w.sub.extractLsb' 4 4 == 0 && (prd || w.prd == 0)

/-- An integer word of form I (R341). -/
def IForm.intOk (w : IForm) (tys : List Ty) (sat hi : Bool) : Bool :=
  tys.contains w.ty && (sat || !w.sat) && (hi || !w.hi) && !(w.sat && w.hi) && w.mod9.extractLsb' 0 3 == 0 &&
  w.fixedOk w.ty.is64

/-- Two-source integer word of form F with a result of the type's width. -/
def FForm.int2Ok (w : FForm) (tys : List Ty) (sat hi : Bool) : Bool :=
  w.intOk tys sat hi false false && w.fixedOk w.ty.is64 && w.unusedOk true true true false

/-- One-source integer word of form F; `single` when the result is one register at either width. -/
def FForm.int1Ok (w : FForm) (tys : List Ty) (sat single : Bool) : Bool :=
  w.intOk tys sat false false false && w.fixedOk (w.ty.is64 && !single) && w.unusedOk true true false false

/-- A floating word of form F without COND or PRD (R398). -/
def FForm.floatOk (w : FForm) (tys : List Ty) (rm : Bool) (b c : Bool) : Bool :=
  tys.contains w.ty && w.ty2 == .i8 && (rm || w.rm == .rne) && !w.sat && w.sub == 0 && w.fixedOk false &&
  w.unusedOk true true b c

/-- A floating word of form I (R341, R398). -/
def IForm.floatOk (w : IForm) (rm : Bool) : Bool :=
  w.ty == .f32 && (rm || w.mod9.extractLsb' 3 2 == 0) && w.mod9.extractLsb' 0 3 == 0 && w.fixedOk false

/-- A class 3 word (R340, R393, R458, R475). -/
def FForm.specialOk (w : FForm) : Bool :=
  w.ty == .f32 && w.ty2 == .i8 && !w.sat && w.sub == 0 && w.varOk && w.unusedOk true true false false

/-- A class 4 word (R423, R472): its types, greatest MODE, whether WJ is a width, a j number or zero, and the use of
PRD, D and B. -/
def FForm.crossOk (w : FForm) (tys : List Ty) (maxMode : Nat) (width j prd d b : Bool) : Bool :=
  tys.contains w.ty && w.plain && w.mode ≤ maxMode && w.sub.extractLsb' 4 2 == 0 &&
  (if width then 1 ≤ w.wj && w.wj ≤ 5 else j || w.wj == 0) && (prd || w.prd == 0) && w.varOk &&
  w.unusedOk d true b true

/-- The orders an instruction takes (R218); every one of them takes all eight scopes. -/
def FForm.orderOk (w : FForm) (orders : List Nat) : Bool := orders.contains w.order

/-- The types of an atomic operation (R365). -/
def aopTypes (aop : Nat) : List Ty :=
  if aop = 0 || aop = 4 || aop = 5 || aop = 6 || aop = 9 then [.i32, .n32, .i64, .n64, .f32]
  else if aop = 1 || aop = 2 || aop = 3 then int4
  else if aop = 7 || aop = 8 then nat2
  else []

/-- A flag word or completion word wait or signal (R469, R493). -/
def FForm.flagOk (w : FForm) (ty : Ty) (order maxAop : Nat) (b c : Bool) : Bool :=
  w.ty == ty && w.plain && w.order == order && w.aop ≤ maxAop && w.bmode == 0 && w.noTag &&
  w.unusedOk false true b c

/-- A class 8 command with a barrier option (R340): SUB[4:0] is zero unless ARV. -/
def FForm.commandOk (w : FForm) (resume b c : Bool) : Bool :=
  w.ty == .i8 && w.plain && w.sub.getLsbD 11 == resume && w.sub.extractLsb' 5 5 == 0 && (w.arv || w.num5 == 0) &&
  w.noTag && w.unusedOk false true b c

/-- A class 9 or A word with no tag, the SUB bits outside `mask` zero. -/
def FForm.subOnly (w : FForm) (mask : BitVec 12) : Bool := w.ty == .i8 && w.plain && w.sub &&& ~~~mask == 0

/-- A class B form F word (R340): MOD is zero. -/
def FForm.controlOk (w : FForm) (a : Bool) : Bool := w.mod0 && w.noTag && w.unusedOk false a false false

/-- LD, LDW, LDX (R415). -/
def IForm.loadOk (w : IForm) (typed plc : Bool) : Bool :=
  w.varOk && w.size ≤ 4 &&
  (if w.typed then typed && !w.sx && 2 ≤ w.size && w.lane ≤ 2
   else w.lane == 0 && (!w.sx || w.size ≤ 1)) && (plc || !w.plc)

/-- ST, STX (R477, R480). -/
def IForm.storeOk (w : IForm) (typed plc : Bool) : Bool :=
  w.noTag && w.size ≤ 4 && !w.sx &&
  (if w.typed then typed && 2 ≤ w.size && w.lane ≤ 2 else w.lane == 0) && (plc || !w.plc)

/-- An even vector or uniform base, or 452: the rule R238 states for TXB's lock operand. -/
def Opnd.evenBaseOrZero : Opnd → Bool
  | .v n => n.val % 2 == 0
  | .s n => n.val % 2 == 0
  | .zero => true
  | _ => false

/-- A word of a stream holds zero in ALLOC, WAIT, its guard and NWB (R425). -/
def Ctl.streamOk (c : Ctl) : Bool := c.alloc == 0 && c.wait == 0

def FForm.streamOk (w : FForm) : Bool := w.ctl.streamOk && w.g.always && !w.nwb

def IForm.streamOk (w : IForm) : Bool := w.ctl.streamOk && w.g.always && !w.nwb

/-- A pair half's write-back bit (R78): MOV's B is unused (R337). -/
def PHalf.encodingOk (h : PHalf) : Bool := (!h.nwb || h.d.isVecOrZero) && (h.op != .mov || h.b.is452)

/-- A uniform source, or none: the exponent operand of a stream's MZERO (R444). -/
def Opnd.isUniformOrZero : Opnd → Bool
  | .s _ | .zero => true
  | _ => false

/-- Every field rule whose breach is ILLEGAL_ENCODING, for a word fetched by a thread. A row that names an event has
no encoding and breaches every rule; the four stream words never reach this check in a thread (R425). -/
def Instr.encodingOk : Instr → Bool
  | .abs w => w.int1Ok [.i32, .i64] true false
  | .add w | .sub w => w.int2Ok int4 true false
  | .addImm w | .subImm w => w.intOk int4 true false
  | .and w | .or w | .xor w | .max w | .min w => w.int2Ok int4 false false
  | .andImm w | .orImm w | .xorImm w | .maxImm w | .minImm w => w.intOk int4 false false
  | .bfi w => w.intOk nat2 false false false false && w.fixedOk w.ty.is64
  | .bfx w => w.intOk int4 false false false false && w.fixedOk w.ty.is64 && w.unusedOk true true false true
  | .brev w => w.int1Ok nat2 false false
  | .clz w | .popc w => w.int1Ok nat2 false true
  | .cmp w => w.intOk int4 false false true true && w.noTag && w.unusedOk false true true false
  | .lea w => w.intOk [.i32, .n32, .i64] false false false false && w.noTag
  | .mad w => w.intOk int4 true true false false && w.fixedOk w.ty.is64
  | .mul w => w.int2Ok int4 true true
  | .mulImm w => w.intOk int4 true true
  | .not w => w.int1Ok int4 false false
  | .sel w => w.intOk nat2 false false false true && w.fixedOk w.ty.is64 && w.unusedOk true true true false
  | .sha w => w.int2Ok [.i32, .i64] false false
  | .shaImm w => w.intOk [.i32, .i64] false false
  | .shl w | .shr w => w.int2Ok nat2 false false
  | .shlImm w | .shrImm w => w.intOk nat2 false false
  | .elect w => w.ty == .i8 && w.plain && w.sub.extractLsb' 4 8 == 0 && w.fixedOk false &&
      w.unusedOk true false false false
  | .mov w => nat2.contains w.ty && w.plain && w.sub == 0 && w.fixedOk false && w.unusedOk true true false false
  | .movi w => w.fixedOk false && w.a.is452 && w.mod9 == 0
  | .movx w => w.mod0 && w.fixedOk false && w.unusedOk true true true false
  | .movxw w => w.mod0 && w.noTag && w.unusedOk true true true false
  | .nop w => w.mod0 && w.noTag && w.unusedOk false false false false
  | .plop w => w.ty == .i8 && w.rm == .rne && !w.sat && w.noTag && w.unusedOk false false false false
  | .srd w => w.ty == .i8 && w.plain && w.varOk && w.unusedOk true false false false
  | .swr w => w.ty == .i8 && w.plain && w.noTag && w.unusedOk false true false false
  | .fadd w | .fmul w => w.floatOk float3 true true false
  | .faddImm w | .fmulImm w => w.floatOk true
  | .fclass w => w.floatOk float6 false false false
  | .fcmp w => float3.contains w.ty && w.plain && w.sub.extractLsb' 4 5 == 0 && w.noTag &&
      w.unusedOk false true true false
  | .fcvt w => w.ty != .resE && w.ty != .resF && w.ty2 != .resE && w.ty2 != .resF &&
      (!w.sat || w.ty == .e4m3 || w.ty == .e5m2 || (w.ty.isInt && w.ty2.isInt)) && w.sub == 0 &&
      w.fixedOk w.ty.is64 && w.unusedOk true true false false
  | .fdiv w => w.ty == .f32 && w.ty2 == .i8 && !w.sat && w.sub == 0 && w.varOk && w.unusedOk true true true false
  | .ffma w => w.floatOk float3 true true true
  | .fmax w | .fmin w => w.floatOk float3 false true false
  | .fmaxImm w | .fminImm w => w.floatOk false
  | .frnd w => w.floatOk float3 true false false
  | .cos w | .ex2 w | .lg2 w | .rcp w | .rsq w | .sin w | .sqrt w | .tanh w => w.specialOk
  | .matchLanes w => w.crossOk nat2 1 false false true true false
  | .proj w => w.crossOk nat2 0 false true true true false
  | .projl w => w.crossOk [.i8] 0 false true true false false
  | .pushl w => w.crossOk nat2 0 true false true true true
  | .redl w => w.crossOk [.i32, .n32, .i64, .n64, .f32] 5 false false false true false &&
      (w.ty != .f32 || w.mode ≤ 2)
  | .shfl w => w.crossOk nat2 3 true false true true true
  | .vote w => w.crossOk [.i8] 2 false false true true false
  | .ld w => w.loadOk true false
  | .ldw w => w.loadOk false false
  | .ldx w => w.loadOk false true
  | .st w => w.storeOk true false
  | .stx w => w.storeOk false true
  | .tld w => w.noTag && w.d.code.toNat < 16 && w.mod9 &&& ~~~0x008#9 == 0
  | .atom w => w.aop ≤ 8 && (aopTypes w.aop).contains w.ty && w.plain && w.orderOk [0, 1, 2, 3, 4] &&
      w.bmode == 0 && w.varOk && w.unusedOk true true true false
  | .atomx w => w.aop ≤ 9 && (aopTypes w.aop).contains w.ty && w.plain && w.orderOk [0, 1, 2, 3, 4] &&
      w.sub.getLsbD 1 == false && w.varOk && w.unusedOk true true true (w.aop == 9)
  | .cas w => w.aop == 0 && [.i32, .n32, .i64, .n64, .f32].contains w.ty && w.plain &&
      w.orderOk [0, 1, 2, 3, 4] && w.bmode == 0 && w.varOk
  | .red w => w.aop ≤ 5 && (aopTypes w.aop).contains w.ty && w.plain && w.orderOk [0, 2] && w.bmode == 0 &&
      w.noTag && w.unusedOk false true true false
  | .barArv w => w.subOnly 0 && w.noTag && w.a.code.toNat < 32 && w.unusedOk false true false false
  | .barWt w => w.subOnly 1 && w.bmode == 1 && w.noTag && w.a.code.toNat < 32 && w.unusedOk false true true false
  | .barSync w => w.subOnly 2 && w.bmode == 2 && w.noTag && w.a.code.toNat < 32 &&
      w.unusedOk false true true false
  | .fence w => w.ty == .i8 && w.plain && w.orderOk [1, 2, 3, 4] && w.aop == 0 && w.bmode == 0 && w.noTag &&
      w.unusedOk false false false false
  | .setfSt w => w.flagOk .n32 2 0 true true
  | .setfAdd w => w.flagOk .n32 2 1 true true && w.aop == 1
  | .waitf w => w.flagOk .n32 1 2 true true
  | .waitw w => w.flagOk .i8 1 0 false false
  | .txb w => w.noTag && w.d.is452 && w.a.evenBaseOrZero && w.mod9.toNat ≤ 4
  | .txe w => w.varOk && w.d.isVecOrZero && w.unusedOk true false false false && w.g.always &&
      w.ty == .i8 && w.plain && w.sub.extractLsb' 4 8 == 0
  | .txa w => w.noTag && w.d.is452 && w.a.is452 && w.mod9 == 0 && w.imm.toNat < 256
  | .txq w => w.varOk && w.d.isVecOrZero && w.unusedOk true false false false && w.mod0
  | .coll w | .pfetch w => w.commandOk false true false
  | .emit w => w.subOnly 0xF && w.noTag && w.unusedOk false true true false
  | .tcpy w => w.commandOk false true true
  | .tcpyResume w => w.commandOk true true true && !w.c.is452
  | .tseal w => w.controlOk false
  | .twait w => w.controlOk true
  | .accrd w => accTypes.contains w.ty && w.ty2 == .i8 && w.rm == .rne && w.sub &&& ~~~0x41F#12 == 0 && w.varOk &&
      w.unusedOk true true (w.sub.getLsbD 10) false
  | .accwr w => w.ty == .f32 && w.plain && w.sub &&& ~~~0x1F#12 == 0 && w.noTag &&
      w.unusedOk false true true false
  | .bndset w => w.subOnly 0 && w.noTag && w.unusedOk false true true false
  | .bndsetKh w => w.subOnly 0x100 && w.sub == 0x100 && w.noTag && w.unusedOk false true true false
  | .bndsetGet w => w.subOnly 0x200 && w.sub == 0x200 && w.noTag && w.unusedOk false true true false
  | .mstart w => w.subOnly 0 && w.noTag && w.unusedOk false true true false
  | .mstartResume w => w.subOnly 0x080 && w.sub == 0x080 && w.noTag && w.unusedOk false false true false
  | .mzero w => w.subOnly 0x01F && w.noTag && w.unusedOk false true false false
  | .mzeroAuto w => w.subOnly 0x41F && w.sub.getLsbD 10 && w.noTag && w.unusedOk false false false false
  | .mzeroRns w => w.subOnly 0x81F && w.sub.getLsbD 11 && w.noTag && w.unusedOk false false false false
  | .rnscfgSet w => w.subOnly 0 && w.noTag && w.unusedOk false true false false
  | .rnscfgGet w => w.subOnly 0x400 && w.sub == 0x400 && w.noTag && w.unusedOk false true false false
  | .rnschk w => w.mod0 && w.varOk && w.unusedOk true true false false
  | .rnsf w => (w.ty == .i32 || w.ty == .i64) && w.plain && w.sub == 0 && w.noTag && w.unusedOk false true true true
  | .rnsr w => w.subOnly 0x01F && w.num5 % 4 == 0 && w.varOk && w.unusedOk true true false false
  | .brx w | .callx w | .prio w => w.controlOk true
  | .exit w | .ret w | .tret w | .yield w => w.controlOk false
  | .lbrk w => w.subOnly 3 && w.noTag && w.unusedOk false false false false
  | .svc w | .trap w => w.noTag && w.d.is452 && w.a.is452 && w.mod9 == 0
  | .pair ctl x y => ctl.alloc == 7 && x.encodingOk && y.encodingOk
  | .bra ctl _ _ | .call ctl _ _ => ctl.alloc == 7
  | .brm ctl pairs => ctl.alloc == 7 && 1 ≤ pairs.length && pairs.length ≤ 4
  | .join w => w.ctl.alloc == 7
  | .loop w => w.ctl.alloc == 7 && w.endOff != 0 && (w.rotb != 63 || w.rots == 0)
  | _ => false

/-- The field rules of a word fetched by the sequencer (R132, R425). -/
def Instr.streamEncodingOk : Instr → Bool
  | .mmad w => w.streamOk && w.mod9.extractLsb' 2 7 == 0 && w.d.code.toNat < 32 && w.a.code.toNat < 16
  | .mzero w => w.streamOk && w.subOnly 0x01F && w.unusedOk false true false false && w.a.isUniformOrZero
  | .mzeroAuto w => w.streamOk && w.subOnly 0x41F && w.sub.getLsbD 10 && w.unusedOk false false false false
  | .mzeroRns w => w.streamOk && w.subOnly 0x81F && w.sub.getLsbD 11 && w.unusedOk false false false false
  | .mbarArv w => w.streamOk && w.subOnly 0x01F && w.unusedOk false false false false
  | .mbarWt w => w.streamOk && w.subOnly 0x11F && w.sub.extractLsb' 8 2 == 1 && w.unusedOk false false false false
  | .mbarSync w => w.streamOk && w.subOnly 0x21F && w.sub.extractLsb' 8 2 == 2 &&
      w.unusedOk false false false false
  | .mend w => w.streamOk && w.mod0 && w.unusedOk false false false false
  | .mjmp w => w.streamOk && w.d.is452 && w.a.is452 && w.mod9.extractLsb' 2 7 == 0
  | _ => false

/-! ## The registers a word names -/

def FForm.useD (w : FForm) (n : Nat) : Use := ⟨0, w.d, n, .dst⟩
def FForm.useA (w : FForm) (n : Nat) : Use := ⟨1, w.a, n, .src⟩
def FForm.useB (w : FForm) (n : Nat) : Use := ⟨2, w.b, n, .src⟩
def FForm.useC (w : FForm) (n : Nat) : Use := ⟨3, w.c, n, .src⟩
def IForm.useD (w : IForm) (n : Nat) : Use := ⟨0, w.d, n, .dst⟩
def IForm.useA (w : IForm) (n : Nat) : Use := ⟨1, w.a, n, .src⟩

/-- FMAC and MAC read D (R337). -/
def PairOp.readsD : PairOp → Bool
  | .fmac | .mac => true
  | _ => false

/-- The fields of one half of a pair. R272 numbers the fields of forms F, I and C alone: in a half D is 0, A is 1 and B
is 2, as there, in X as in Y, and X is looked at first (DESIGN CHOICE, log entry 96). -/
def PHalf.uses (h : PHalf) : List Use :=
  [⟨0, h.d, 1, .dst⟩, ⟨1, h.a, 1, .src⟩, ⟨2, h.b, 1, .src⟩] ++ (if h.op.readsD then [⟨0, h.d, 1, .src⟩] else [])

/-- Every operand field of a word that holds a specifier, in the order D, A, B, C (R65, R69 and the entries). -/
def Instr.uses : Instr → List Use
  | .abs w | .not w | .brev w => [w.useD w.ty.regs, w.useA w.ty.regs]
  | .add w | .sub w | .and w | .or w | .xor w | .max w | .min w | .mul w | .sel w =>
    [w.useD w.ty.regs, w.useA w.ty.regs, w.useB w.ty.regs]
  | .addImm w | .subImm w | .andImm w | .orImm w | .xorImm w | .maxImm w | .minImm w | .mulImm w | .shaImm w
  | .shlImm w | .shrImm w => [w.useD w.ty.regs, w.useA w.ty.regs]
  | .bfi w => [w.useD w.ty.regs, w.useA w.ty.regs, w.useB w.ty.regs, w.useC 1]
  | .bfx w => [w.useD w.ty.regs, w.useA w.ty.regs, w.useC 1]
  | .clz w | .popc w => [w.useD 1, w.useA w.ty.regs]
  | .cmp w => [w.useA w.ty.regs, w.useB w.ty.regs]
  | .lea w => [w.useD 2, w.useA 2, w.useB w.ty.regs, w.useC 1]
  | .mad w => [w.useD w.ty.regs, w.useA w.ty.regs, w.useB w.ty.regs, w.useC w.ty.regs]
  | .sha w | .shl w | .shr w => [w.useD w.ty.regs, w.useA w.ty.regs, w.useB 1]
  | .elect w => [w.useD 1]
  | .mov w => [w.useD w.ty.regs, w.useA w.ty.regs]
  | .movi w => [w.useD 1]
  | .movx w => [w.useD 1, ⟨1, w.a, 1, .baseName⟩, w.useB 1]
  | .movxw w => [⟨0, w.d, 1, .baseName⟩, w.useA 1, w.useB 1]
  | .nop _ | .plop _ => []
  | .srd w => [w.useD (sysRegRegs w.subN)]
  | .swr w => [w.useA (sysRegRegs w.subN)]
  | .fadd w | .fmul w | .fmax w | .fmin w => [w.useD 1, w.useA 1, w.useB 1]
  | .faddImm w | .fmulImm w | .fmaxImm w | .fminImm w => [w.useD 1, w.useA 1]
  | .fclass w | .frnd w => [w.useD 1, w.useA 1]
  | .fcmp w => [w.useA 1, w.useB 1]
  | .fcvt w => [w.useD w.ty.regs, w.useA w.ty2.regs]
  | .fdiv w => [w.useD 1, w.useA 1, w.useB 1]
  | .ffma w => [w.useD 1, w.useA 1, w.useB 1, w.useC 1]
  | .cos w | .ex2 w | .lg2 w | .rcp w | .rsq w | .sin w | .sqrt w | .tanh w => [w.useD 1, w.useA 1]
  | .matchLanes w => [w.useD w.ty.regs, w.useA w.ty.regs, w.useC 1]
  | .proj w | .redl w => [w.useD w.ty.regs, w.useA w.ty.regs, w.useC 1]
  | .projl w => [w.useA 1, w.useC 1]
  | .pushl w | .shfl w => [w.useD w.ty.regs, w.useA w.ty.regs, w.useB 1, w.useC 1]
  | .vote w => [w.useD 1, w.useA 1, w.useC 1]
  | .ld w => [w.useD w.dataRegs, w.useA 2]
  | .ldw w | .ldx w => [w.useD w.dataRegs, w.useA 1]
  | .st w => [⟨0, w.d, w.dataRegs, .src⟩, w.useA 2]
  | .stx w => [⟨0, w.d, w.dataRegs, .src⟩, w.useA 1]
  | .tld w => [w.useA 2]
  | .atom w => [w.useD w.ty.regs, w.useA 2, w.useB w.ty.regs]
  | .atomx w => [w.useD w.ty.regs, w.useA 1, w.useB w.ty.regs] ++ (if w.aop = 9 then [w.useC w.ty.regs] else [])
  | .barArv _ => []
  | .barWt w | .barSync w => [w.useB 1]
  | .cas w => [w.useD w.ty.regs, w.useA 2, w.useB w.ty.regs, w.useC w.ty.regs]
  | .fence _ => []
  | .red w => [w.useA 2, w.useB w.ty.regs]
  | .setfSt w | .setfAdd w | .waitf w => [w.useA 2, w.useB 1, w.useC 4]
  | .waitw w => [w.useA 2]
  | .txb w => [w.useA 2]
  | .txe w | .txq w => [⟨0, w.d, 1, .dstVector⟩]
  | .txa _ => []
  | .coll w | .pfetch w => [w.useA 2, w.useB 2]
  | .emit w => [w.useA 1, w.useB 1]
  | .tcpy w | .tcpyResume w => [w.useA 2, w.useB 2, w.useC 2]
  | .tseal _ => []
  | .twait w => [w.useA 1]
  | .accrd w => [⟨0, w.d, 1, .dstVector⟩, w.useA 1] ++ (if w.sub.getLsbD 10 then [w.useB 1] else [])
  | .accwr w => [w.useA 1, w.useB 1]
  | .bndset w | .bndsetKh w | .bndsetGet w => [w.useA 1, w.useB 1]
  | .mstart w => [w.useA 2, w.useB 2]
  | .mstartResume w => [w.useB 2]
  | .mzero w => [w.useA 1]
  | .mzeroAuto _ | .mzeroRns _ => []
  | .rnscfgSet w | .rnscfgGet w => [w.useA 1]
  | .rnschk w => [w.useD 1, w.useA 3]
  | .rnsf w => [w.useA w.ty.regs, w.useB 1, w.useC 1]
  | .rnsr w => [⟨0, w.d, 4, .dstVector⟩, w.useA 1]
  | .brx w | .callx w => [w.useA 2]
  | .prio w => [w.useA 1]
  | .pair _ x y => x.uses ++ y.uses
  | .join w => [⟨7, w.m, 1, .src⟩, ⟨8, w.t, 1, .src⟩]
  | .loop w => [⟨5, w.cnt, 1, .src⟩]
  | _ => []

/-- The base rule of a group inside a class of `total` names (R69). -/
def groupBaseOk (size base total : Nat) : Bool :=
  (size == 3 || base % size == 0) && base + size ≤ total

/-- The specifier is legal in its position (R65, R66, R69). -/
def Use.ok (u : Use) : Bool :=
  match u.o with
  | .v n => groupBaseOk u.size n.val 384
  | .s n => (u.kind == .src || u.kind == .dst) && groupBaseOk u.size n.val 64
  | .zero => u.kind != .baseName
  | .k _ | .lane | .slot => u.kind == .src && u.size == 1
  | .res _ => false

/-- The window fields of LOOP (R345). -/
def LoopForm.windowOk (w : LoopForm) : Bool :=
  w.rotb == 63 || (w.rotb.toNat ≤ 47 && 8 * w.rotb.toNat + 8 * (w.rots.toNat + 1) ≤ 384)

/-- EXTRA of ILLEGAL_OPERAND for the first field that breaks its rule (R272). Where several do R272 gives no order: here
it is D, A, B, C (DESIGN CHOICE, log entry 96). -/
def Instr.operandFault (i : Instr) : Option Nat :=
  match i.uses.find? (fun u => !u.ok) with
  | some u => some u.field
  | none =>
    match i with
    | .srd w => if (sysRegInfo w.subN).isNone then some 4 else none
    | .swr w => if (sysRegInfo w.subN).isNone then some 4 else none
    | .loop w => if w.windowOk then none else some 6
    | _ => none

/-- The registers that a use names (R63, R69). -/
def Use.vnames (u : Use) : List Nat :=
  match u.o with
  | .v n => (List.range u.size).map (n.val + ·)
  | _ => []

/-- The vector sources of a word, as encoded. -/
def vectorReads (us : List Use) : List Nat :=
  ((us.filter (fun u => u.kind == .src)).flatMap Use.vnames).dedup

/-- The reads of one bank (R80). -/
def bankReads (regs : List Nat) (bank : Nat) : Nat := (regs.filter (fun n => n % 4 == bank)).length

def PHalf.sources (h : PHalf) : List Opnd := [h.a, h.b] ++ (if h.op.readsD then [h.d] else [])

def Opnd.isLatch : Opnd → Bool
  | .k _ => true
  | _ => false

/-- The rules of a pair (R338): one destination each, no dependence of Y on X, the bank rule on encoded names. A
discarded or suppressed destination is written nowhere (R78), so no source of Y depends on it. -/
def pairOk (x y : PHalf) : Bool :=
  (x.d != y.d || x.d.is452) &&
  (x.nwb || !(y.sources.any (fun o => o == x.d && !o.isLatch && !o.is452))) &&
  [0, 1, 2, 3].all (fun b => bankReads (vectorReads (x.uses ++ y.uses)) b ≤ 2)

def Instr.pairRuleOk : Instr → Bool
  | .pair _ x y => pairOk x y
  | _ => true

/-- The offending name of REG_RANGE (R63): the first name, in the order D, A, B, C, at or beyond the limit, an order
that R272 does not give (DESIGN CHOICE, log entry 96); for LOOP the first name of the window there. -/
def Instr.regRangeFault (i : Instr) (limit : Nat) : Option Nat :=
  match (i.uses.flatMap Use.vnames).find? (fun n => limit ≤ n) with
  | some n => some n
  | none =>
    match i with
    | .loop w =>
      let b := 8 * w.rotb.toNat
      let e := b + 8 * (w.rots.toNat + 1)
      if w.rotb == 63 || e ≤ limit then none else some (Nat.max b limit)
    | _ => none

/-- The word may not be issued by a thread of the role (R51). -/
def Instr.roleOk (i : Instr) (r : Role) : Bool :=
  match i with
  | .tcpy _ | .tcpyResume _ | .tseal _ | .twait _ | .pfetch _ | .coll _ => r == .copy
  | .tld _ | .mstart _ | .mstartResume _ => r == .feed
  | .accrd _ | .accwr _ | .mzero _ | .mzeroAuto _ | .mzeroRns _ | .rnsr _ => r == .epi
  | .mmad _ | .mbarArv _ | .mbarWt _ | .mbarSync _ | .mend _ | .mjmp _ => false
  | _ => true

/-- SWR to a read-only register (R81, R497). -/
def Instr.privFault (i : Instr) : Option Nat :=
  match i with
  | .swr w => if (sysRegInfo w.subN).any (·.readOnly) then some w.subN else none
  | _ => none

/-- The control field of a word; an event has none. -/
def Instr.ctl : Instr → Ctl
  | .abs w | .add w | .and w | .bfi w | .bfx w | .brev w | .clz w | .cmp w | .lea w | .mad w | .max w | .min w
  | .mul w | .not w | .or w | .popc w | .sel w | .sha w | .shl w | .shr w | .sub w | .xor w | .elect w | .mov w
  | .movx w | .movxw w | .nop w | .plop w | .srd w | .swr w | .fadd w | .fclass w | .fcmp w | .fcvt w | .fdiv w
  | .ffma w | .fmax w | .fmin w | .fmul w | .frnd w | .cos w | .ex2 w | .lg2 w | .rcp w | .rsq w | .sin w | .sqrt w
  | .tanh w | .matchLanes w | .proj w | .projl w | .pushl w | .redl w | .shfl w | .vote w | .atom w | .atomx w
  | .barArv w | .barWt w | .barSync w | .cas w | .fence w | .red w | .setfSt w | .setfAdd w | .waitf w | .waitw w
  | .txe w | .txq w | .coll w | .emit w | .pfetch w | .tcpy w | .tcpyResume w | .tseal w | .twait w | .accrd w
  | .accwr w | .bndset w | .bndsetKh w | .bndsetGet w | .mbarArv w | .mbarWt w | .mbarSync w | .mend w | .mstart w
  | .mstartResume w | .mzero w | .mzeroAuto w | .mzeroRns w | .rnscfgSet w | .rnscfgGet w | .rnschk w | .rnsf w
  | .rnsr w | .brx w | .callx w | .exit w | .lbrk w | .prio w | .ret w | .tret w | .yield w => w.ctl
  | .addImm w | .andImm w | .maxImm w | .minImm w | .mulImm w | .orImm w | .shaImm w | .shlImm w | .shrImm w
  | .subImm w | .xorImm w | .movi w | .faddImm w | .fmaxImm w | .fminImm w | .fmulImm w | .ld w | .ldw w | .ldx w
  | .st w | .stx w | .tld w | .txb w | .txa w | .mjmp w | .mmad w | .svc w | .trap w => w.ctl
  | .pair c _ _ | .bra c _ _ | .brm c _ | .call c _ _ => c
  | .join w => w.ctl
  | .loop w => w.ctl
  | _ => ⟨7, 0, false, false⟩

/-- The guard of a word; the words without one always execute (R333, R345). -/
def Instr.guard : Instr → Guard
  | .abs w | .add w | .and w | .bfi w | .bfx w | .brev w | .clz w | .cmp w | .lea w | .mad w | .max w | .min w
  | .mul w | .not w | .or w | .popc w | .sel w | .sha w | .shl w | .shr w | .sub w | .xor w | .elect w | .mov w
  | .movx w | .movxw w | .nop w | .plop w | .srd w | .swr w | .fadd w | .fclass w | .fcmp w | .fcvt w | .fdiv w
  | .ffma w | .fmax w | .fmin w | .fmul w | .frnd w | .cos w | .ex2 w | .lg2 w | .rcp w | .rsq w | .sin w | .sqrt w
  | .tanh w | .matchLanes w | .proj w | .projl w | .pushl w | .redl w | .shfl w | .vote w | .atom w | .atomx w
  | .barArv w | .barWt w | .barSync w | .cas w | .fence w | .red w | .setfSt w | .setfAdd w | .waitf w | .waitw w
  | .txq w | .coll w | .emit w | .pfetch w | .tcpy w | .tcpyResume w | .tseal w | .twait w | .accrd w
  | .accwr w | .bndset w | .bndsetKh w | .bndsetGet w | .mstart w
  | .mstartResume w | .mzero w | .mzeroAuto w | .mzeroRns w | .rnscfgSet w | .rnscfgGet w | .rnschk w | .rnsf w
  | .rnsr w | .brx w | .callx w | .exit w | .lbrk w | .prio w | .ret w | .tret w | .yield w => w.g
  | .addImm w | .andImm w | .maxImm w | .minImm w | .mulImm w | .orImm w | .shaImm w | .shlImm w | .shrImm w
  | .subImm w | .xorImm w | .movi w | .faddImm w | .fmaxImm w | .fminImm w | .fmulImm w | .ld w | .ldw w | .ldx w
  | .st w | .stx w | .tld w | .txb w | .txa w | .svc w | .trap w => w.g
  | .bra _ g _ | .call _ g _ => g
  | _ => ⟨false, 0⟩

/-- The seven cross-lane instructions (R43). -/
def Instr.isCrossLane : Instr → Bool
  | .matchLanes _ | .proj _ | .projl _ | .pushl _ | .redl _ | .shfl _ | .vote _ => true
  | _ => false

end Sys2Proof
end

