-- ==== Sys2Proof/WellFormed.lean ====
section
/-! DEFINITION. Which instructions have an encoding that the hardware accepts: the words a thread may decode and the
words the sequencer may execute. -/

namespace Sys2Proof

/-- A word that a thread decodes without a decode fault of its own fields (R344); ROLE, REG_RANGE and PRIV depend on
the thread. -/
def Instr.wfThread (i : Instr) : Bool := i.encodingOk && i.pairRuleOk && i.operandFault.isNone

/-- A word that the sequencer executes (R132, R425). -/
def Instr.wfStream (i : Instr) : Bool := i.streamEncodingOk

/-- An instruction word; an event of the table of steps has no encoding and is never well formed. -/
def Instr.wf (i : Instr) : Bool := i.wfThread || i.wfStream

end Sys2Proof
end

