-- ==== Sys2Proof/Decode.lean ====
section
/-! DEFINITION. Decoding of the 96-bit instruction word (R329 to R345), total on every word, and after it the encoder.
A thread and the sequencer decode the same layouts under different field rules (R425). -/

namespace Sys2Proof

/-- A 96-bit instruction word (R329). -/
abbrev IWord := BitVec 96

/-- Why a word is no instruction (R344), with EXTRA of ILLEGAL_OPERAND (R272). `role` is the fate of the four stream
opcodes in a thread (R425). -/
inductive DecodeFault where
  | illegalOpcode
  | illegalEncoding
  | illegalPair
  | illegalOperand (extra : Nat)
  | role
  deriving DecidableEq, Repr

namespace Decode

/-- Field [start + len - 1 : start] of a word. -/
def field (w : IWord) (start len : Nat) : BitVec len := w.extractLsb' start len

/-- The control field (R332). -/
def ctl (w : IWord) : Ctl := ⟨field w 91 3, field w 84 7, w.getLsbD 83, w.getLsbD 82⟩

def guardOf (g : BitVec 5) : Guard := ⟨g.getLsbD 4, g.extractLsb' 0 4⟩

def opnd (w : IWord) (start : Nat) : Opnd := Opnd.ofCode (field w start 9)

/-- Form F (R334, R340). -/
def fForm (w : IWord) : FForm where
  ctl := ctl w
  g := guardOf (field w 23 5)
  d := opnd w 56
  nwb := w.getLsbD 55
  a := opnd w 46
  b := opnd w 37
  c := opnd w 28
  ty := Ty.ofCode (field w 19 4)
  ty2 := Ty.ofCode (field w 15 4)
  rm := Rnd.ofCode (field w 13 2)
  sat := w.getLsbD 12
  sub := field w 0 12

/-- Form I (R335). -/
def iForm (w : IWord) : IForm where
  ctl := ctl w
  g := guardOf (field w 41 5)
  d := opnd w 56
  nwb := w.getLsbD 55
  a := opnd w 46
  mod9 := field w 32 9
  imm := field w 0 32

/-- The opcode map of form F (R343); where one opcode has several rows, a field of MOD picks the row. `none` where
no row has that field. -/
def opF (opc : Nat) (f : FForm) : Option Instr :=
  match opc with
  | 0x000 => some (.add f) | 0x001 => some (.sub f) | 0x002 => some (.mul f) | 0x003 => some (.mad f)
  | 0x004 => some (.abs f) | 0x005 => some (.min f) | 0x006 => some (.max f) | 0x007 => some (.and f)
  | 0x008 => some (.or f) | 0x009 => some (.xor f) | 0x00A => some (.not f) | 0x00B => some (.shl f)
  | 0x00C => some (.shr f) | 0x00D => some (.sha f) | 0x00E => some (.popc f) | 0x00F => some (.clz f)
  | 0x010 => some (.brev f) | 0x011 => some (.bfx f) | 0x012 => some (.bfi f) | 0x013 => some (.lea f)
  | 0x014 => some (.cmp f) | 0x015 => some (.sel f)
  | 0x100 => some (.mov f) | 0x102 => some (.movx f) | 0x103 => some (.movxw f) | 0x104 => some (.srd f)
  | 0x105 => some (.swr f) | 0x106 => some (.elect f) | 0x107 => some (.plop f) | 0x108 => some (.nop f)
  | 0x200 => some (.fadd f) | 0x201 => some (.fmul f) | 0x202 => some (.ffma f) | 0x203 => some (.fmin f)
  | 0x204 => some (.fmax f) | 0x205 => some (.fcmp f) | 0x206 => some (.fcvt f) | 0x207 => some (.fclass f)
  | 0x208 => some (.frnd f) | 0x209 => some (.fdiv f)
  | 0x300 => some (.rcp f) | 0x301 => some (.rsq f) | 0x302 => some (.sqrt f) | 0x303 => some (.ex2 f)
  | 0x304 => some (.lg2 f) | 0x305 => some (.sin f) | 0x306 => some (.cos f) | 0x307 => some (.tanh f)
  | 0x400 => some (.shfl f) | 0x401 => some (.pushl f) | 0x402 => some (.vote f) | 0x403 => some (.matchLanes f)
  | 0x404 => some (.projl f) | 0x405 => some (.proj f) | 0x406 => some (.redl f)
  | 0x600 => some (.atom f) | 0x601 => some (.cas f) | 0x602 => some (.red f) | 0x603 => some (.atomx f)
  | 0x604 => some (.fence f)
  | 0x605 => if f.aop = 0 then some (.setfSt f) else if f.aop = 1 then some (.setfAdd f) else none
  | 0x606 => some (.waitf f) | 0x607 => some (.waitw f)
  | 0x608 => if f.bmode = 0 then some (.barArv f) else if f.bmode = 1 then some (.barWt f)
             else if f.bmode = 2 then some (.barSync f) else none
  | 0x701 => some (.txe f) | 0x703 => some (.txq f)
  | 0x800 => if f.sub.getLsbD 11 then some (.tcpyResume f) else some (.tcpy f)
  | 0x801 => some (.tseal f) | 0x802 => some (.twait f) | 0x803 => some (.pfetch f) | 0x804 => some (.coll f)
  | 0x805 => some (.emit f)
  | 0x901 => if f.sub.getLsbD 11 then some (.mzeroRns f) else if f.sub.getLsbD 10 then some (.mzeroAuto f)
             else some (.mzero f)
  | 0x902 => if f.sub.extractLsb' 8 2 = 0 then some (.mbarArv f) else if f.sub.extractLsb' 8 2 = 1 then
             some (.mbarWt f) else if f.sub.extractLsb' 8 2 = 2 then some (.mbarSync f) else none
  | 0x903 => some (.mend f)
  | 0x905 => if f.sub.getLsbD 7 then some (.mstartResume f) else some (.mstart f)
  | 0x906 => some (.accrd f) | 0x907 => some (.accwr f)
  | 0x908 => if f.sub.extractLsb' 8 2 = 0 then some (.bndset f) else if f.sub.extractLsb' 8 2 = 1 then
             some (.bndsetKh f) else if f.sub.extractLsb' 8 2 = 2 then some (.bndsetGet f) else none
  | 0xA00 => if f.sub.extractLsb' 10 2 = 0 then some (.rnscfgSet f) else if f.sub.extractLsb' 10 2 = 1 then
             some (.rnscfgGet f) else none
  | 0xA01 => some (.rnsf f) | 0xA02 => some (.rnsr f) | 0xA03 => some (.rnschk f)
  | 0xB00 => some (.brx f) | 0xB01 => some (.callx f) | 0xB02 => some (.ret f) | 0xB03 => some (.exit f)
  | 0xB04 => some (.yield f) | 0xB06 => some (.tret f) | 0xB08 => some (.lbrk f) | 0xB09 => some (.prio f)
  | _ => none

/-- The opcode map of form I (R336, R343). -/
def opI (opc : Nat) (f : IForm) : Option Instr :=
  match opc with
  | 0x000 => some (.addImm f) | 0x001 => some (.subImm f) | 0x002 => some (.mulImm f) | 0x005 => some (.minImm f)
  | 0x006 => some (.maxImm f) | 0x007 => some (.andImm f) | 0x008 => some (.orImm f) | 0x009 => some (.xorImm f)
  | 0x00B => some (.shlImm f) | 0x00C => some (.shrImm f) | 0x00D => some (.shaImm f)
  | 0x101 => some (.movi f)
  | 0x200 => some (.faddImm f) | 0x201 => some (.fmulImm f) | 0x203 => some (.fminImm f)
  | 0x204 => some (.fmaxImm f)
  | 0x500 => some (.ld f) | 0x501 => some (.st f) | 0x502 => some (.ldx f) | 0x503 => some (.stx f)
  | 0x504 => some (.ldw f) | 0x505 => some (.tld f)
  | 0x700 => some (.txb f) | 0x702 => some (.txa f)
  | 0x900 => some (.mmad f) | 0x904 => some (.mjmp f)
  | 0xB05 => some (.trap f) | 0xB07 => some (.svc f)
  | _ => none

/-- The opcodes of the map (R343). -/
def assigned (opc : Nat) : Bool :=
  let c := opc / 0x100
  let o := opc % 0x100
  (c == 0 && o ≤ 0x15) || (c == 1 && o ≤ 8) || (c == 2 && o ≤ 9) || (c == 3 && o ≤ 7) || (c == 4 && o ≤ 6) ||
  (c == 5 && o ≤ 5) || (c == 6 && o ≤ 8) || (c == 7 && o ≤ 3) || (c == 8 && o ≤ 5) || (c == 9 && o ≤ 8) ||
  (c == 0xA && o ≤ 3) || (c == 0xB && o ≤ 9)

/-- MMAD, MBAR, MEND and MJMP (R425). -/
def streamOnly (opc : Nat) : Bool := opc == 0x900 || opc == 0x902 || opc == 0x903 || opc == 0x904

/-- MMAD, MZERO, MBAR, MEND and MJMP (R132). -/
def streamOpcode (opc : Nat) : Bool := streamOnly opc || opc == 0x901

/-- The pair operation codes (R337). -/
def pairOp (c : BitVec 7) : Option PairOp :=
  match c.toNat with
  | 0x00 => some .fadd | 0x01 => some .fmul | 0x02 => some .fmac | 0x03 => some .fmin | 0x04 => some .fmax
  | 0x08 => some .add | 0x09 => some .sub | 0x0A => some .mul | 0x0B => some .and | 0x0C => some .or
  | 0x0D => some .xor | 0x0E => some .shl | 0x0F => some .shr | 0x10 => some .min | 0x11 => some .max
  | 0x12 => some .mac | 0x18 => some .mov
  | _ => none

/-- One half of a pair (R337), with its operation taken as given. -/
def half (w : IWord) (base : Nat) (op : PairOp) : PHalf where
  op := op
  d := opnd w (base + 22)
  nwb := w.getLsbD (base + 21)
  a := opnd w (base + 12)
  b := opnd w (base + 3)
  g := field w base 3

/-- Form P (R337, R338): its encoding errors rank before an unlisted operation code (R273). -/
def pairForm (w : IWord) : Except DecodeFault Instr :=
  let x := pairOp (field w 70 7)
  let y := pairOp (field w 32 7)
  let px := half w 39 (x.getD .fadd)
  let py := half w 1 (y.getD .fadd)
  if field w 77 5 ≠ 0 || w.getLsbD 0 || (ctl w).alloc ≠ 7 || !px.encodingOk || !py.encodingOk then
    .error .illegalEncoding
  else if x.isNone || y.isNone then .error .illegalPair
  else .ok (.pair (ctl w) px py)

/-- Group g of BRM (R345). -/
def brmGroup (w : IWord) (g : Nat) : Guard × BitVec 13 :=
  (guardOf (field w (69 - 18 * g) 5), field w (56 - 18 * g) 13)

/-- Form C (R345): the bits that a layout leaves unassigned are 0. -/
def controlForm (w : IWord) : Except DecodeFault Instr :=
  let sub := (field w 74 3).toNat
  if 5 ≤ sub then .error .illegalOpcode
  else if field w 77 5 ≠ 0 then .error .illegalEncoding
  else match sub with
  | 0 => if field w 0 45 ≠ 0 then .error .illegalEncoding
         else .ok (.bra (ctl w) (guardOf (field w 69 5)) (field w 45 24))
  | 1 => if field w 0 45 ≠ 0 then .error .illegalEncoding
         else .ok (.call (ctl w) (guardOf (field w 69 5)) (field w 45 24))
  | 2 =>
    let n := (field w 0 2).toNat + 1
    if (List.range 4).any (fun g => n ≤ g && field w (56 - 18 * g) 18 ≠ 0) then .error .illegalEncoding
    else .ok (.brm (ctl w) ((List.range n).map (brmGroup w)))
  | 3 => if field w 0 34 ≠ 0 then .error .illegalEncoding
         else .ok (.loop ⟨ctl w, field w 72 2, opnd w 63, field w 47 16, field w 41 6, field w 37 4, field w 34 3⟩)
  | _ => if field w 0 51 ≠ 0 then .error .illegalEncoding
         else .ok (.join ⟨ctl w, w.getLsbD 73, field w 69 4, opnd w 60, opnd w 51⟩)

/-- The instruction of a word by its layout alone: which row, and which fields (R331, R343). -/
def parse (w : IWord) : Except DecodeFault Instr :=
  let opc := (field w 65 12).toNat
  match (field w 94 2).toNat with
  | 2 => pairForm w
  | 3 => controlForm w
  | form =>
    if !assigned opc then .error .illegalOpcode
    else if field w 77 5 ≠ 0 then .error .illegalEncoding
    else match (if form = 0 then opF opc (fForm w) else opI opc (iForm w)) with
      | some i => .ok i
      | none => .error .illegalEncoding

/-- The word is of form F or I and bears one of the four stream opcodes (R425). -/
def isStreamOnly (w : IWord) : Bool := (field w 94 2).toNat < 2 && streamOnly (field w 65 12).toNat

/-- The word bears one of the five stream opcodes in form F or I (R152). -/
def isStreamWord (w : IWord) : Bool := (field w 94 2).toNat < 2 && streamOpcode (field w 65 12).toNat

end Decode

/-- A thread's decode: the first failing check of R273 among those that no thread state enters. -/
def decodeThread (w : IWord) : Except DecodeFault Instr :=
  if Decode.isStreamOnly w then .error .role
  else match Decode.parse w with
  | .error f => .error f
  | .ok i =>
    if !i.encodingOk then .error .illegalEncoding
    else if !i.pairRuleOk then .error .illegalPair
    else match i.operandFault with
      | some x => .error (.illegalOperand x)
      | none => .ok i

/-- The sequencer's decode (R152): any word but the five is ILLEGAL_OPCODE, any breach of their rules
ILLEGAL_ENCODING. -/
def decodeStream (w : IWord) : Except DecodeFault Instr :=
  if !Decode.isStreamWord w then .error .illegalOpcode
  else match Decode.parse w with
  | .error _ => .error .illegalEncoding
  | .ok i => if i.streamEncodingOk then .ok i else .error .illegalEncoding

/-- The instruction of a table row's word, of 96 bits, whose bit i is bit (i mod 8) of byte i div 8 (R329). A word
that a thread refuses is tried as a stream word. -/
def decodeTableWord (nbits w : Nat) : Option Instr :=
  let v : IWord := BitVec.ofNat 96 (w % 2 ^ nbits)
  match decodeThread v with
  | .ok i => some i
  | .error _ =>
    match decodeStream v with
    | .ok i => some i
    | .error _ => none

/-! ## The encoder, written from the same tables -/

namespace Encode

/-- The control field with its reserved bits (R332). -/
def ctl (c : Ctl) : BitVec 17 :=
  c.alloc ++ c.wait ++ BitVec.ofBool c.yld ++ BitVec.ofBool c.keep ++ 0#5

def guardBits (g : Guard) : BitVec 5 := BitVec.ofBool g.neg ++ g.pred

/-- Form F (R334). -/
def fForm (opc : BitVec 12) (f : FForm) : IWord :=
  0#2 ++ ctl f.ctl ++ opc ++ f.d.code ++ BitVec.ofBool f.nwb ++ f.a.code ++ f.b.code ++ f.c.code ++ guardBits f.g ++
    f.ty.code ++ f.ty2.code ++ f.rm.code ++ BitVec.ofBool f.sat ++ f.sub

/-- Form I (R335). -/
def iForm (opc : BitVec 12) (f : IForm) : IWord :=
  1#2 ++ ctl f.ctl ++ opc ++ f.d.code ++ BitVec.ofBool f.nwb ++ f.a.code ++ guardBits f.g ++ f.mod9 ++ f.imm

def pairCode : PairOp → BitVec 7
  | .fadd => 0x00 | .fmul => 0x01 | .fmac => 0x02 | .fmin => 0x03 | .fmax => 0x04
  | .add => 0x08 | .sub => 0x09 | .mul => 0x0A | .and => 0x0B | .or => 0x0C | .xor => 0x0D
  | .shl => 0x0E | .shr => 0x0F | .min => 0x10 | .max => 0x11 | .mac => 0x12 | .mov => 0x18

/-- One half of form P (R337). -/
def half (h : PHalf) : BitVec 38 :=
  pairCode h.op ++ h.d.code ++ BitVec.ofBool h.nwb ++ h.a.code ++ h.b.code ++ h.g

/-- One group of BRM (R345); the groups beyond the last pair are zero. -/
def brmGroup (ps : List (Guard × BitVec 13)) (g : Nat) : BitVec 18 :=
  match ps[g]? with
  | some p => guardBits p.1 ++ p.2
  | none => 0

end Encode

/-- The word of an instruction; an event has none, and the answer for it is the all-zero word, which no decoder
accepts. -/
def encode : Instr → IWord
  | .add f => Encode.fForm 0x000 f | .sub f => Encode.fForm 0x001 f | .mul f => Encode.fForm 0x002 f
  | .mad f => Encode.fForm 0x003 f | .abs f => Encode.fForm 0x004 f | .min f => Encode.fForm 0x005 f
  | .max f => Encode.fForm 0x006 f | .and f => Encode.fForm 0x007 f | .or f => Encode.fForm 0x008 f
  | .xor f => Encode.fForm 0x009 f | .not f => Encode.fForm 0x00A f | .shl f => Encode.fForm 0x00B f
  | .shr f => Encode.fForm 0x00C f | .sha f => Encode.fForm 0x00D f | .popc f => Encode.fForm 0x00E f
  | .clz f => Encode.fForm 0x00F f | .brev f => Encode.fForm 0x010 f | .bfx f => Encode.fForm 0x011 f
  | .bfi f => Encode.fForm 0x012 f | .lea f => Encode.fForm 0x013 f | .cmp f => Encode.fForm 0x014 f
  | .sel f => Encode.fForm 0x015 f
  | .mov f => Encode.fForm 0x100 f | .movx f => Encode.fForm 0x102 f | .movxw f => Encode.fForm 0x103 f
  | .srd f => Encode.fForm 0x104 f | .swr f => Encode.fForm 0x105 f | .elect f => Encode.fForm 0x106 f
  | .plop f => Encode.fForm 0x107 f | .nop f => Encode.fForm 0x108 f
  | .fadd f => Encode.fForm 0x200 f | .fmul f => Encode.fForm 0x201 f | .ffma f => Encode.fForm 0x202 f
  | .fmin f => Encode.fForm 0x203 f | .fmax f => Encode.fForm 0x204 f | .fcmp f => Encode.fForm 0x205 f
  | .fcvt f => Encode.fForm 0x206 f | .fclass f => Encode.fForm 0x207 f | .frnd f => Encode.fForm 0x208 f
  | .fdiv f => Encode.fForm 0x209 f
  | .rcp f => Encode.fForm 0x300 f | .rsq f => Encode.fForm 0x301 f | .sqrt f => Encode.fForm 0x302 f
  | .ex2 f => Encode.fForm 0x303 f | .lg2 f => Encode.fForm 0x304 f | .sin f => Encode.fForm 0x305 f
  | .cos f => Encode.fForm 0x306 f | .tanh f => Encode.fForm 0x307 f
  | .shfl f => Encode.fForm 0x400 f | .pushl f => Encode.fForm 0x401 f | .vote f => Encode.fForm 0x402 f
  | .matchLanes f => Encode.fForm 0x403 f | .projl f => Encode.fForm 0x404 f | .proj f => Encode.fForm 0x405 f
  | .redl f => Encode.fForm 0x406 f
  | .atom f => Encode.fForm 0x600 f | .cas f => Encode.fForm 0x601 f | .red f => Encode.fForm 0x602 f
  | .atomx f => Encode.fForm 0x603 f | .fence f => Encode.fForm 0x604 f
  | .setfSt f | .setfAdd f => Encode.fForm 0x605 f
  | .waitf f => Encode.fForm 0x606 f | .waitw f => Encode.fForm 0x607 f
  | .barArv f | .barWt f | .barSync f => Encode.fForm 0x608 f
  | .txe f => Encode.fForm 0x701 f | .txq f => Encode.fForm 0x703 f
  | .tcpy f | .tcpyResume f => Encode.fForm 0x800 f
  | .tseal f => Encode.fForm 0x801 f | .twait f => Encode.fForm 0x802 f | .pfetch f => Encode.fForm 0x803 f
  | .coll f => Encode.fForm 0x804 f | .emit f => Encode.fForm 0x805 f
  | .mzero f | .mzeroAuto f | .mzeroRns f => Encode.fForm 0x901 f
  | .mbarArv f | .mbarWt f | .mbarSync f => Encode.fForm 0x902 f
  | .mend f => Encode.fForm 0x903 f
  | .mstart f | .mstartResume f => Encode.fForm 0x905 f
  | .accrd f => Encode.fForm 0x906 f | .accwr f => Encode.fForm 0x907 f
  | .bndset f | .bndsetKh f | .bndsetGet f => Encode.fForm 0x908 f
  | .rnscfgSet f | .rnscfgGet f => Encode.fForm 0xA00 f
  | .rnsf f => Encode.fForm 0xA01 f | .rnsr f => Encode.fForm 0xA02 f | .rnschk f => Encode.fForm 0xA03 f
  | .brx f => Encode.fForm 0xB00 f | .callx f => Encode.fForm 0xB01 f | .ret f => Encode.fForm 0xB02 f
  | .exit f => Encode.fForm 0xB03 f | .yield f => Encode.fForm 0xB04 f | .tret f => Encode.fForm 0xB06 f
  | .lbrk f => Encode.fForm 0xB08 f | .prio f => Encode.fForm 0xB09 f
  | .addImm f => Encode.iForm 0x000 f | .subImm f => Encode.iForm 0x001 f | .mulImm f => Encode.iForm 0x002 f
  | .minImm f => Encode.iForm 0x005 f | .maxImm f => Encode.iForm 0x006 f | .andImm f => Encode.iForm 0x007 f
  | .orImm f => Encode.iForm 0x008 f | .xorImm f => Encode.iForm 0x009 f | .shlImm f => Encode.iForm 0x00B f
  | .shrImm f => Encode.iForm 0x00C f | .shaImm f => Encode.iForm 0x00D f
  | .movi f => Encode.iForm 0x101 f
  | .faddImm f => Encode.iForm 0x200 f | .fmulImm f => Encode.iForm 0x201 f | .fminImm f => Encode.iForm 0x203 f
  | .fmaxImm f => Encode.iForm 0x204 f
  | .ld f => Encode.iForm 0x500 f | .st f => Encode.iForm 0x501 f | .ldx f => Encode.iForm 0x502 f
  | .stx f => Encode.iForm 0x503 f | .ldw f => Encode.iForm 0x504 f | .tld f => Encode.iForm 0x505 f
  | .txb f => Encode.iForm 0x700 f | .txa f => Encode.iForm 0x702 f
  | .mmad f => Encode.iForm 0x900 f | .mjmp f => Encode.iForm 0x904 f
  | .trap f => Encode.iForm 0xB05 f | .svc f => Encode.iForm 0xB07 f
  | .pair c x y => (2#2 ++ Encode.ctl c ++ Encode.half x ++ Encode.half y ++ 0#1 : BitVec 96)
  | .bra c g off => (3#2 ++ Encode.ctl c ++ 0#3 ++ Encode.guardBits g ++ off ++ 0#45 : BitVec 96)
  | .call c g off => (3#2 ++ Encode.ctl c ++ 1#3 ++ Encode.guardBits g ++ off ++ 0#45 : BitVec 96)
  | .brm c ps => (3#2 ++ Encode.ctl c ++ 2#3 ++ Encode.brmGroup ps 0 ++ Encode.brmGroup ps 1 ++
      Encode.brmGroup ps 2 ++ Encode.brmGroup ps 3 ++ BitVec.ofNat 2 (ps.length - 1) : BitVec 96)
  | .loop l => (3#2 ++ Encode.ctl l.ctl ++ 3#3 ++ l.lvl ++ l.cnt.code ++ l.endOff ++ l.rotb ++ l.rots ++ l.stg ++
      0#34 : BitVec 96)
  | .join j => (3#2 ++ Encode.ctl j.ctl ++ 4#3 ++ BitVec.ofBool j.ar ++ j.p ++ j.m.code ++ j.t.code ++ 0#51 :
      BitVec 96)
  | _ => 0

end Sys2Proof
end

