-- ==== Sys2Proof/Machine/Sparse.lean ====
section
/-! DEFINITION. Sparse maps in their one canonical form, and runs of bytes, little-endian (R3). -/

namespace Sys2Proof.Machine

/-- The value at a key; zero where nothing is listed. -/
def SMap.get {w : Nat} (m : SMap w) (k : Nat) : BitVec w :=
  match m with
  | [] => 0
  | (a, x) :: r => if k = a then x else if k < a then 0 else SMap.get r k

/-- A value at a key, in front of what is listed; a zero is not listed. -/
def SMap.push {w : Nat} (k : Nat) (v : BitVec w) (m : SMap w) : SMap w :=
  if v = 0 then m else (k, v) :: m

/-- The map with another value at a key. -/
def SMap.set {w : Nat} (m : SMap w) (k : Nat) (v : BitVec w) : SMap w :=
  match m with
  | [] => SMap.push k v []
  | (a, x) :: r =>
    if k = a then SMap.push k v r
    else if k < a then SMap.push k v ((a, x) :: r)
    else (a, x) :: SMap.set r k v

/-- The canonical form: keys strictly rising, no zero listed. -/
def SMap.wf {w : Nat} (m : SMap w) : Bool :=
  match m with
  | [] => true
  | [(_, x)] => x != 0
  | (a, x) :: (b, y) :: r => x != 0 && a < b && SMap.wf ((b, y) :: r)

/-- The map without the keys that fail a test. -/
def SMap.keep {w : Nat} (m : SMap w) (p : Nat → Bool) : SMap w := m.filter (fun c => p c.1)

/-- The map of a function over the first `n` keys. -/
def SMap.ofFun {w : Nat} (n : Nat) (f : Nat → BitVec w) : SMap w :=
  (List.range n).filterMap (fun k => if f k = 0 then none else some (k, f k))

/-- The canonical form of memory. -/
def Memory.wf (m : SMap 8) : Bool := SMap.wf m

/-- `n` bytes from an address upwards. -/
def readBytes (m : SMap 8) (a : Nat) : Nat → List Byte
  | 0 => []
  | n + 1 => SMap.get m a :: readBytes m (a + 1) n

/-- Bytes stored from an address upwards. -/
def writeBytes (m : SMap 8) (a : Nat) : List Byte → SMap 8
  | [] => m
  | b :: bs => writeBytes (SMap.set m a b) (a + 1) bs

/-- The number that bytes spell, little-endian. -/
def leNat : List Byte → Nat
  | [] => 0
  | b :: bs => b.toNat + 256 * leNat bs

/-- The `n` low bytes of a number, little-endian. -/
def leBytes (v : Nat) : Nat → List Byte
  | 0 => []
  | n + 1 => BitVec.ofNat 8 v :: leBytes (v / 256) n

/-- A whole little-endian value written. -/
def writeLe (m : SMap 8) (a n v : Nat) : SMap 8 := writeBytes m a (leBytes v n)

/-- An element put in front of the first that it is not after, and a list sorted so; equal ones keep their order. -/
def insertBy {α : Type} (le : α → α → Bool) (x : α) : List α → List α
  | [] => [x]
  | y :: r => if le x y then x :: y :: r else y :: insertBy le x r

def sortBy {α : Type} (le : α → α → Bool) : List α → List α
  | [] => []
  | x :: r => insertBy le x (sortBy le r)

/-- Numbers in rising order. -/
def sortNat (l : List Nat) : List Nat := sortBy (fun a b => a ≤ b) l

/-- The list with an element added if it is not there. -/
def insertNat (l : List Nat) (n : Nat) : List Nat := if l.contains n then l else n :: l

/-- Bits [hi:lo] of a number. -/
def bits (v hi lo : Nat) : Nat := v / 2 ^ lo % 2 ^ (hi - lo + 1)

/-- Bit `n` of a number. -/
def bit (v n : Nat) : Bool := v / 2 ^ n % 2 == 1

/-- One for true. -/
def b2n (b : Bool) : Nat := if b then 1 else 0

/-- A value clamped to a range. -/
def clampInt (x lo hi : Int) : Int := max lo (min x hi)

end Sys2Proof.Machine
end

