-- ==== Sys2Proof/Config.lean ====
section
/-! DEFINITION. What one package is fitted with, and the free values: what the manual leaves open while the machine
goes on. A free value has no body, so nothing can be proved of it; the step applies it to `State.freeCtr`. -/

namespace Sys2Proof.Config

/-- A word the manual leaves undefined. Free value, log entry 7. -/
opaque freeWord : Nat → BitVec 32

/-- A choice the manual leaves open (old or new contents, sideways or home). Free value, log entry 7. -/
opaque freeBool : Nat → Bool

/-- A choice among many that the manual leaves open (a victim, an order). Free value, log entry 7. -/
opaque freeNat : Nat → Nat

/-- Bytes the manual leaves undefined, by event and place: an extent's once its key is gone (R305), a failed command's
destination beyond POS (R284, R392). Free value, log entry 7. -/
opaque freeByte : Nat → Nat → BitVec 8

/-- The signature of a measurement block under the device key (R318), which the security core never releases. -/
opaque signature : Nat → BitVec 256 → BitVec 512

/-- A key that the security core generates (R299). -/
opaque freshKey : Nat → BitVec 256

/-- Ordering code: an RN4810-M carries LP6, an RN4810-P does not (R1, R21). Log entry 5. -/
def lp6 : Bool := true

/-- The digests of the verifying keys that are fused into the security core (R315). Log entry 5. -/
opaque keyDigest : Nat → BitVec 256

/-- The fused revocation of those four slots, and the fused minimum of the security versions (R315). Log entry 5. -/
def revoked : BitVec 4 := 0
def minVersion : Nat := 1

/-- What the boot-configuration record of a digest says (R20, R21, R294): whether a CXL port is upstream, its number,
and the fabric identifier. Log entry 5. -/
opaque recordUpEn : BitVec 256 → Bool
opaque recordUpPort : BitVec 256 → BitVec 2
opaque recordFabId : BitVec 256 → BitVec 16

/-- The clock that boot leaves, in MHz (R324). Log entry 6. -/
def bootMHz : Nat := 2000

/-- Cores of a package (R12). -/
def numCores : Nat := 384

/-- Copy commands of a block that have not ended (R281). -/
def maxCopies : Nat := 11136

/-- Transaction slots of a core (R241). -/
def txSlots : Nat := 256

end Sys2Proof.Config
end

