-- ==== Sys2Proof/Machine/State.lean ====
section
/-! DEFINITION. The state of one package as plain data: its threads, blocks, cores, slices, tables and registers, and
the memory it reaches. `State.reset` is the package right after a package reset. Cores are numbered c = 24y + x, as
the slot table numbers them (R260); times are clocks, and microseconds where a name ends in `Us`. -/

namespace Sys2Proof.Machine

/-- Why the machine stops. -/
inductive Fault where
  /-- Raised by `execHostCoreAccess`: a host core or I/O device addressed a hole (R197). Safe: the manual gives the
  access no effect. -/
  | hostHole (addr : DWord)
  deriving DecidableEq, Repr

/-- What the model gives no meaning. -/
inductive Refusal where
  /-- Raised by an arm of `exec` whose instruction has no meaning yet. Safe. -/
  | notModelled (mnemonic : String)
  deriving DecidableEq, Repr

/-- A live loop level (R89, R90): LCNT, LBASE, LEND and the fields of LROT. -/
structure LoopLevel where
  cnt : Word
  base : DWord
  last : DWord
  susp : Bool
  stgm1 : BitVec 3
  wbase : BitVec 6
  wsize : BitVec 5
  rrb : BitVec 7
  deriving DecidableEq, Repr

/-- A bypass latch (R76 to R79): the result, the physical register the producer wrote (none when suppressed), and
whether the latch is valid. -/
structure Latch where
  value : Word
  src : Option Nat
  valid : Bool
  deriving DecidableEq, Repr

/-- A destination register, fixed at issue (R95). -/
inductive RegDst where
  | v (n : Nat)
  | s (n : Nat)
  deriving DecidableEq, Repr

/-- A result on its way under a tag (R73, R86): what it writes, its flags, its poison (EXTRA of POISON, R272) or
lost package, and the word and access it came from with the physical address that its translation reached, else 0
(R270). An empty result (R75) writes nothing. -/
structure Pending where
  tag : Nat
  dst : List (RegDst × Word)
  pred : Option (Nat × Bool)
  flags : BitVec 5
  arrived : Bool
  poison : Option Nat
  lost : Option Nat
  producer : DWord
  addr : DWord
  kind : Nat
  code : BitVec 9
  size : Nat
  phys : Nat
  /-- A slice answers it, with a congestion level (R195). -/
  slice : Bool
  deriving DecidableEq, Repr

/-- What an issued word still waits for; the PC stays at the word (R28). -/
inductive Wait where
  | none
  /-- BAR.WT and BAR.SYNC: barrier and the phase that holds the thread (R372). -/
  | barrier (n : Nat) (phase : Bool)
  /-- JOIN: mask with the own bit, expiry clock, result predicate, AR (R39 to R42). -/
  | join (mask : Word) (expiry : Nat) (pred : Nat) (ar : Bool)
  /-- WAITF: flag address, condition, target, scope, range (R494). -/
  | flag (va : DWord) (cond : Nat) (target : Word) (scope : Nat) (base len : Nat)
  /-- WAITW: completion word, scope (R494). -/
  | word (va : DWord) (scope : Nat)
  /-- TWAIT: batch number (R490). -/
  | batch (n : Word)
  /-- A cross-lane word that its thread has arrived at: the word, mask, guard, clock of arrival (R43, R45). -/
  | cross (i : Instr) (mask : Word) (on : Bool) (since : Nat)
  /-- An outermost TXE, as its word, whose commit runs (R248). -/
  | commit (w : FForm)
  deriving DecidableEq, Repr

/-- Why a thread is suspended for the package kernel (R274, R277, R482): a fault without handler keeps its TADDR and
TCAUSE, a nested one its TADDR and EXTRA, a service request the word where RETRY continues. -/
inductive Susp where
  | none
  | fault (taddr : DWord) (tcause : Word)
  | handlerSvc
  | nested (t : DWord) (extra : Word)
  | service (next : DWord)
  deriving DecidableEq, Repr

/-- A read entry of a transaction (R242): the sector, the grain code of its page, the logged value, its poison mark. -/
structure TxRead where
  sector : Nat
  grain : Nat
  data : Sector
  poison : Bool
  deriving DecidableEq, Repr

/-- A write entry of a transaction (R242): the sector, the grain code of its page, the byte mask, the data, its poison
mark. -/
structure TxWrite where
  sector : Nat
  grain : Nat
  mask : BitVec 32
  data : Sector
  poison : Bool
  deriving DecidableEq, Repr

/-- An open transaction (R239 to R242). -/
structure Tx where
  depth : Nat
  scope : Nat
  exitWord : DWord
  savedRsd : Nat
  savedLdepth : Nat
  lockSector : Option Nat
  lockAddr : Nat
  reads : List TxRead
  writes : List TxWrite
  deriving DecidableEq, Repr

/-- A store or RED posted to another package and not yet acknowledged (R227); `op` is an AOP and its type for RED. With
it goes the translation it came through: virtual address, context, G (R205), whether its page has CPOL 2 (R223), and the
poison mark of the link flit that carries it (R285). -/
structure Posted where
  addr : Nat
  data : List Byte
  op : Option (Nat × Ty)
  va : DWord
  ctx : Nat
  glob : Bool
  uncached : Bool
  poison : Bool
  deriving DecidableEq, Repr

/-- A write to memory as it was executed while blocks were bound, or a release (R330): who made it, a thread, a copy
command or, 0, any other agent; and each byte's address with what the write replaced there. A release has no bytes. -/
structure CodeNote where
  who : Nat
  old : List (Nat × BitVec 8)
  deriving DecidableEq, Repr

/-- The 48-byte line that a fetcher passes through (R330): its number, the version of memory that the fetch of it
delivered, and the lowest word that the pass can still fetch: the one fetched last, until it issues. -/
structure LineFetch where
  line : Nat
  version : Nat
  next : DWord
  deriving DecidableEq, Repr

/-- One thread slot of a bound block. -/
structure Thread where
  core : Nat
  slot : Nat
  role : Role
  live : Bool
  pc : DWord
  regs : SMap 32
  preds : BitVec 16
  tst : Word
  tcause : Word
  taddr : DWord
  tpc : DWord
  loops : List LoopLevel
  shadow : List LoopLevel
  shadowV : Bool
  stack : List DWord
  latches : List Latch
  pend : List Pending
  age : Nat
  promoted : Bool
  yld : Bool
  keep : Bool
  wait : Wait
  susp : Susp
  frozen : Bool
  pendPoison : Bool
  pendLost : Option Nat
  rfLatch : Option Nat
  /-- Physical registers that an uncorrectable error has struck and nothing has rewritten (R286). -/
  regPoison : List Nat
  posted : List Posted
  /-- The widest scope of a release fence that the thread has executed (R220); 0 for none. -/
  relFence : Nat
  /-- The thread has executed a lazy release fence since it was placed (R220, R226). -/
  lazyFence : Bool
  tx : Option Tx
  batch : Word
  /-- The code line that the thread passes through (R330). -/
  line : Option LineFetch
  deriving DecidableEq, Repr

/-- A uniform write in flight (R67): register, value, clock, quarter and slot of its issue. -/
structure UniWrite where
  reg : Nat
  value : Word
  clock : Nat
  quarter : Nat
  slot : Nat
  deriving DecidableEq, Repr

/-- A write of a block register in flight: TVEC (R497) or RNSCFG (R174), whose value is the word zero-extended. -/
structure RegWrite where
  value : DWord
  clock : Nat
  quarter : Nat
  slot : Nat
  deriving DecidableEq, Repr

/-- A role of the launch (R49, R257) with its priority register (R52). -/
structure RoleRow where
  role : Role
  first : Nat
  last : Nat
  adiv8 : Nat
  limit : Nat
  prio : Nat
  entry : DWord
  deriving DecidableEq, Repr

/-- The residue state of an accumulator quad (R164); a quad that is not listed is not in residue mode. -/
structure Quad where
  q : Nat
  d : Nat
  chset : BitVec 10
  ktotal : BitVec 48
  ea : SMap 8
  eb : SMap 8
  deriving DecidableEq, Repr

/-- The states of the matrix sequencer (R131). -/
inductive SeqState where
  | idle | running | stopped
  deriving DecidableEq, Repr

/-- The matrix sequencer (R131 to R137, R151 to R154, R233): `reuse` is the tile held in the operand latch, `ready` the
clock at which its latest update is complete, `busy` the clock from which it may execute its next word, `armed` the
barrier of an MBAR.SYNC whose arrival has been made while its wait goes on, `waiting` the byte address for which a
not-present page holds it, `owed` the barriers to which a stopped sequencer owes an arrival, with the clock of the
completion that it answers (R233). -/
structure Seq where
  state : SeqState
  spc : DWord
  sc : List (BitVec 17)
  parity : BitVec 32
  parts : BitVec 32
  cw : DWord
  cause : Nat
  reuse : Option Nat
  ready : Nat
  busy : Nat
  armed : Option Nat
  waiting : Option DWord
  owed : List (Nat × Nat)
  /-- The code line that the sequencer passes through (R330). -/
  line : Option LineFetch
  deriving DecidableEq, Repr

/-- A block bound to a core, or one that has retired while its rectangle lives (R57). -/
structure Block where
  core : Nat
  bx : Nat
  bY : Nat
  w : Nat
  h : Nat
  rect : Nat
  ctx : Nat
  table : Nat
  saveBase : DWord
  img : List Nat
  route : Nat
  wp : Nat
  inst : Nat
  retired : Bool
  killed : Bool
  uni : SMap 32
  uniPend : List UniWrite
  tvec : DWord
  tvecPend : List RegWrite
  roles : List RoleRow
  prioPend : List (Nat × Role × Nat)
  proj : SMap 144
  xbuf : SMap 8
  xpoison : List Nat
  wbuf : SMap 8
  wfmt : SMap 8
  wgeo : SMap 8
  wpoison : List Nat
  tileRows : SMap 512
  tileFmt : SMap 8
  tileGeo : SMap 8
  tileKeff : SMap 8
  tileTags : SMap 8
  tilePoison : List Nat
  accM : SMap 48
  accSt : SMap 2
  accE : SMap 16
  /-- Accumulators whose auto bit is clear. -/
  accFixed : List Nat
  quads : List Quad
  seq : Seq
  rnsCfg : Word
  rnsPend : List RegWrite
  fixCnt : Word
  fixSeen : Bool
  misSeen : Bool
  rngSeen : Bool
  /-- Barrier arrivals of the clock, not yet applied: slot, barrier, and for a SYNC its phase (R232, R372). -/
  arrivals : List (Nat × Nat × Option Bool)
  kept : List (Nat × List Nat)
  holds : List (Nat × List Nat)
  nextCopy : Nat
  deriving DecidableEq, Repr

/-- A 32-byte sector in an L1 (R182): which bytes are valid, which dirty, the grain code, the source core of a
foreign victim (R189), and its poison mark. -/
structure L1Sector where
  sector : Nat
  data : Sector
  valid : BitVec 32
  dirty : BitVec 32
  grain : Nat
  foreign : Option Nat
  poison : Bool
  deriving DecidableEq, Repr

/-- One element of an update-only region (R184), with the poison mark of its sector (R285). -/
structure Delta where
  addr : Nat
  aop : Nat
  ty : Ty
  value : DWord
  grain : Nat
  poison : Bool
  deriving DecidableEq, Repr

structure UpdateRegion where
  region : Nat
  deltas : List Delta
  deriving DecidableEq, Repr

/-- A copy of a 32-byte sector of a borrowed extent at its home slice (R186, R303). -/
structure BorrowLine where
  sector : Nat
  data : Sector
  dirty : Bool
  deriving DecidableEq, Repr

/-- A cached translation (R204): context, G, level and page number of the page, and the leaf as read. -/
structure TlbEntry where
  ctx : Nat
  glob : Bool
  level : Nat
  page : Nat
  pte : BitVec 128
  leaf : Nat
  deriving DecidableEq, Repr

/-- A defective multiplier of the residue array (R289, R503): on a physical lane, serving an output column, its product
comes out too large by `add`, from the clock `since` on. -/
structure LaneDefect where
  lane : Nat
  column : Nat
  add : Nat
  since : Nat
  deriving DecidableEq, Repr

/-- A defective channel reduction unit (R289): what it adds to a sum, from the clock `since` on. -/
structure UnitDefect where
  unit : Nat
  add : Nat
  since : Nat
  deriving DecidableEq, Repr

/-- One core's caches, its residue fences (R175), and the defects of its residue array (R289). -/
structure CoreRec where
  core : Nat
  sectors : List L1Sector
  updates : List UpdateRegion
  tlb : List TlbEntry
  /-- The oldest version of memory that the instruction cache may still hold: that of the latest launch or resumption on
  the core (R330). -/
  codeFrom : Nat
  lgFence : BitVec 10
  unitFence : BitVec 10
  lgOrdered : BitVec 10
  unitOrdered : BitVec 10
  lgLifted : BitVec 10
  unitLifted : BitVec 10
  lgMarked : BitVec 10
  laneDefects : List LaneDefect
  unitDefects : List UnitDefect
  deriving DecidableEq, Repr

/-- An entry of the slot table (R260). -/
structure SlotEntry where
  core : Nat
  rect : Nat
  state : Nat
  inst : Nat
  wpAddr : Nat
  deriving DecidableEq, Repr

/-- A release record (R187, R226). That of a range release also holds the spans of bytes that it covers, to which R225
confines what it writes back (DEDUCED, log entry 23); none for everything. -/
structure ReleaseRec where
  slice : Nat
  addr : Nat
  core : Nat
  range : Option (List (Nat × Nat))
  deriving DecidableEq, Repr

/-- A cached bound entry with its uncounted hits (R147, R150). -/
structure BoundCache where
  cohort : Nat
  entry : Nat
  image : BitVec 128
  hits : Nat
  deriving DecidableEq, Repr

/-- A tensor descriptor as read (R306). -/
structure TensorDesc where
  base : DWord
  space : Nat
  ndim : Nat
  esz : Nat
  sizes : List Nat
  strides : List Int
  timeout : Nat
  deriving DecidableEq, Repr

/-- A collective record as read (R309) with what the other members bring. -/
structure CollRec where
  op : Nat
  alg : Nat
  ty : Nat
  id : Nat
  n : Nat
  flag : DWord
  target : Nat
  started : Bool
  deriving DecidableEq, Repr

inductive CopyKind where
  | tcpy | pfetch | coll
  deriving DecidableEq, Repr

/-- A command of a copy engine or of the collective engine that has not ended, or whose batch is still to be awaited
(R235, R281, R306 to R310); `resumeFrom` is the code and the position of a completed word that TCPY.RESUME read.
`block` is the core and slot that issued it, none for a COPY waypoint. -/
structure CopyCmd where
  id : Nat
  kind : CopyKind
  block : Option (Nat × Nat)
  ctx : Nat
  table : Nat
  owner : Option (Nat × Nat × Nat)
  desc : DWord
  src : TensorDesc
  dst : TensorDesc
  coll : Option CollRec
  cw : Option DWord
  arv : Option Nat
  batch : Option Word
  pos : Nat
  resumeFrom : Option (Nat × Nat)
  begun : Bool
  poisoned : Bool
  /-- Page elements that the command has written in part (R149): address, bytes written. -/
  halfDone : List (Nat × BitVec 8)
  /-- Completion code and cause (R283). -/
  ended : Option (Nat × Nat)
  /-- The completion word and the arrival have been made (R236). -/
  reported : Bool
  /-- The microsecond of issue, then of the latest unit (R307, R391). -/
  sinceUs : Nat
  deriving DecidableEq, Repr

/-- A route of a queue (R255) whose header has been read. -/
structure Route where
  id : Nat
  queue : Nat
  addr : Nat
  n : Nat
  ctx : Nat
  wpBase : Nat
  table : Nat
  errBase : DWord
  errCap : Nat
  errTail : Nat
  cw : DWord
  dropped : Bool
  completed : Bool
  /-- Waypoints of which an instance has failed (R265). -/
  failedWps : List Nat
  /-- The waypoints that its completion has left waiting (R265, R267). -/
  leftWaiting : List Nat
  deriving DecidableEq, Repr

/-- An instance in ready order, and the clock in which it became ready (R260). -/
structure ReadyInst where
  route : Nat
  wp : Nat
  inst : Nat
  queue : Nat
  prio : Nat
  time : Nat
  count : Nat
  deriving DecidableEq, Repr

/-- A leaky-bucket counter (R288). -/
structure Counter where
  kind : CounterKind
  inst : Nat
  value : Nat
  deriving DecidableEq, Repr

/-- A congestion level received by a quarter (R195): until which clock it is in force. -/
structure Congestion where
  core : Nat
  quarter : Nat
  level : Nat
  untilClock : Nat
  deriving DecidableEq, Repr

/-- What the package sends out: an event or interrupt to host cores and management ports, a message to another
package, a response of a port. -/
inductive Notice where
  | hostInterrupt
  | counterEvent (data : BitVec 128)
  | linkEvent (port : Nat)
  | alarmEvent (bits : Nat)
  | bootFailure (code : Nat)
  | mctp (req : Requester) (ok : Bool) (value : BitVec 256)
  | spdm (requester : SpdmPath) (block : Nat) (mreg : BitVec 256) (sig : BitVec 512)
  | message (peer : Nat) (kind : Nat) (extent : Nat)
  /-- A dynamic-capacity add event with the terms of the offer (R299). -/
  | addEvent (peer extent term : Nat) (pr pw keep : Bool)
  | response (pkg : Nat) (ok : Bool) (data : List Byte)
  /-- A request to another package (R314): target, source package number, the key of its context, address, and the kind
  of access it asks for: 0 read, 1 write, 2 atomic. -/
  | request (pkg src : Nat) (key : BitVec 16) (addr kind : Nat)
  | urgent (core quarter : Nat) (tag : Nat)
  /-- A stack that can lose no further channel (R192). -/
  | stackFailed (stack : Nat)
  deriving DecidableEq, Repr

/-- The package's control registers (R20, R22, R195, R254, R275, R294, R321, R375) and fused or boot settings. -/
structure Regs where
  pkgNum : BitVec 10
  podSet : Bool
  /-- UPEN, UPPORT and FABID, as the boot-configuration record has loaded them (R20, R294). -/
  upEn : Bool
  upPort : BitVec 2
  fabId : BitVec 16
  throt : Word
  dispCfg : Word
  fqBase : DWord
  fqTail : Word
  fqHead : Word
  lendCfg : DWord
  lendStat : DWord
  linkArb : Word
  bndBase : DWord
  mgOwner : Nat
  mgHold : Nat
  mgDeadlineUs : Nat
  mgLast : List Requester
  alarmCfg : Word
  alarmStat : Word
  pwrCap : Word
  clkMHz : Nat
  clkLimits : BitVec 3
  fways : Nat
  bootStage : Nat
  bootFail : Option Nat
  deriving DecidableEq, Repr

/-- Who executes the word that `exec` is given. -/
inductive Actor where
  | none
  | party (core : Nat) (slots : List Nat)
  | seq (core : Nat)
  deriving DecidableEq, Repr

/-- Who still moves in this clock. -/
inductive Turn where
  | quarter (core q : Nat)
  | barriers (core : Nat)
  | sequencer (core : Nat)
  | copies
  | leaks
  deriving DecidableEq, Repr

/-- A fault that waits for room in the fault queue (R275): the record's first 24 bytes. -/
structure FqRecord where
  data : BitVec 256
  deriving DecidableEq, Repr

structure State where
  -- time (R288, R324)
  clock : Nat
  usAcc : Nat
  timeUs : Nat
  halted : Bool
  -- the model's own (log entries 1 and 7)
  agenda : List Instr
  turns : List Turn
  actor : Actor
  freeCtr : Nat
  issued : Bool
  -- memory by pod physical byte address
  mem : SMap 8
  poison : List Nat
  /-- What lenders hold of borrowed extents, by lender, extent and byte (R297, R303). -/
  lenderMem : SMap 8
  /-- The writes executed while blocks were bound, and their writers' releases, newest first. How many are listed
  numbers the versions of memory (R330). -/
  replaced : List CodeNote
  -- cores
  threads : List Thread
  blocks : List Block
  cores : List CoreRec
  slots : List SlotEntry
  copies : List CopyCmd
  nextCopy : Nat
  /-- Copy commands of pre-empted blocks, as they were read at issue, by the block (R281, log entry 10). -/
  parked : List (Nat × CopyCmd)
  /-- Slots of pre-empted blocks that had executed a release fence, with its scope, by the block (R220, log entry 10).
  -/
  parkedFences : List (Nat × Nat × Nat)
  -- slices and cohorts
  chanDead : List (Nat × Nat)
  releases : List ReleaseRec
  foreignWays : List (Nat × Nat × Sector × Bool)
  /-- Copies of borrowed sectors at their slices, oldest first (R186, R303). -/
  borrowLines : List BorrowLine
  /-- The 512-byte lines that the slices hold, oldest first (R186). -/
  sliceLines : List (Nat × Nat)
  /-- Stacks reported failed (R192). -/
  failedStacks : List Nat
  xlate : List (Nat × TlbEntry)
  /-- The model's own: every leaf through which an address has been translated, newest first (log entry 83). -/
  leaves : List TlbEntry
  bounds : List BoundCache
  congestion : List Congestion
  memIssues : List (Nat × Nat × Nat)
  invFifo : List DWord
  /-- Writes to INVDB that wait for a place (R206). -/
  invHeld : List DWord
  -- dispatch
  rqFifo : List (Nat × DWord)
  routes : List Route
  ready : List ReadyInst
  flagsMet : List (Nat × Nat × Nat)
  fqWait : List FqRecord
  -- registers and tables
  regs : Regs
  cadastre : SMap 128
  offers : List (Nat × Nat × Nat × Nat)
  borrowed : SMap 128
  /-- TERM of the leases that this package borrows under, by entry (R299). -/
  terms : SMap 12
  /-- The package time of each lease peer's latest heartbeat (R302). -/
  heard : List (Nat × Nat)
  windows : SMap 256
  outkey : SMap 16
  refusedIn : Nat
  bndown : SMap 16
  eol : SMap 16
  mreg : SMap 256
  keys : SMap 256
  counters : List Counter
  leakSet : List (CounterKind × Nat × Nat)
  markedBanks : List Nat
  /-- Corrected errors of each stack since boot; the health figures at their latest update: of HBM, of LP6, of links
  (R323). -/
  hbmErrors : SMap 32
  hbmWear : SMap 128
  lp6Wear : SMap 64
  linkMargin : SMap 16
  -- pod and links
  ports : List (Nat × Nat × Bool)
  live : List Nat
  lost : List Nat
  manager : Option Nat
  standby : Option Nat
  /-- The live attested packages of the fabric, by their identifiers (R304). -/
  attested : List Nat
  -- what has been sent out
  notices : List Notice
  deriving DecidableEq, Repr

/-- The leak period in microseconds and the mark of each kind of counter at reset (R288). -/
def leakReset : List (CounterKind × Nat × Nat) :=
  [(.bank, 1000000, 64), (.lane, 10000, 1000), (.cohort, 1000000, 256), (.laneGroup, 100000, 32)]

/-- The registers after reset, at the values of their field tables; where a table gives none, log entry 4. -/
def Regs.reset : Regs where
  pkgNum := 0
  podSet := false
  upEn := false
  upPort := 0
  fabId := 0
  throt := BitVec.ofNat 32 (16 * 2 ^ 24 + 1 * 2 ^ 15 + 4 * 2 ^ 10 + 8 * 2 ^ 5 + 16)
  dispCfg := 0xFFFF0000
  fqBase := 0
  fqTail := 0
  fqHead := 0
  lendCfg := BitVec.ofNat 64 (50 * 2 ^ 48 + 50 * 2 ^ 32 + 10 * 2 ^ 16 + 5 * 2 ^ 8 + 1)
  lendStat := 0
  linkArb := 0x11
  bndBase := 0
  mgOwner := 0
  mgHold := 1000
  mgDeadlineUs := 0
  mgLast := []
  alarmCfg := 2
  alarmStat := 0
  pwrCap := 5000
  clkMHz := Config.bootMHz
  clkLimits := 0
  fways := 4
  bootStage := 0
  bootFail := none

/-- The package right after reset: no block bound, every table at its reset value, nothing in any cache, memory with
nothing listed. -/
def State.reset : State where
  clock := 0
  usAcc := 0
  timeUs := 0
  halted := false
  agenda := []
  turns := []
  actor := .none
  freeCtr := 0
  issued := false
  mem := []
  poison := []
  lenderMem := []
  replaced := []
  threads := []
  blocks := []
  cores := []
  slots := []
  copies := []
  nextCopy := 0
  parked := []
  parkedFences := []
  chanDead := []
  releases := []
  foreignWays := []
  borrowLines := []
  sliceLines := []
  failedStacks := []
  xlate := []
  leaves := []
  bounds := []
  congestion := []
  memIssues := []
  invFifo := []
  invHeld := []
  rqFifo := []
  routes := []
  ready := []
  flagsMet := []
  fqWait := []
  regs := Regs.reset
  cadastre := []
  offers := []
  borrowed := []
  terms := []
  heard := []
  windows := []
  outkey := []
  refusedIn := 0
  bndown := []
  eol := []
  mreg := []
  keys := []
  counters := []
  leakSet := leakReset
  markedBanks := []
  hbmErrors := []
  hbmWear := []
  lp6Wear := []
  linkMargin := []
  ports := []
  live := [0]
  lost := []
  manager := none
  standby := none
  attested := []
  notices := []

end Sys2Proof.Machine
end

