-- ==== Sys2Proof/Machine/Access.lean ====
section
/-! DEFINITION. Reaching the parts of the state: threads, blocks, cores, the slot table, free values; the numbering of
cores (R12); what goes out. -/

namespace Sys2Proof.Machine

/-- A thread slot that holds no thread. -/
def Thread.blank (c q : Nat) : Thread where
  core := c
  slot := q
  role := .gen
  live := false
  pc := 0
  regs := []
  preds := 1
  tst := 0
  tcause := 0
  taddr := 0
  tpc := 0
  loops := []
  shadow := []
  shadowV := false
  stack := []
  latches := []
  pend := []
  age := 0
  promoted := false
  yld := false
  keep := false
  wait := .none
  susp := .none
  frozen := false
  pendPoison := false
  pendLost := none
  rfLatch := none
  regPoison := []
  posted := []
  relFence := 0
  lazyFence := false
  tx := none
  batch := 0
  line := none

def Seq.blank : Seq where
  state := .idle
  spc := 0
  sc := [0, 0, 0, 0]
  parity := 0
  parts := 0
  cw := 0
  cause := 0
  reuse := none
  ready := 0
  busy := 0
  armed := none
  waiting := none
  owed := []
  line := none

/-- A block with nothing in it: its tiles zero, its accumulators in auto mode, its projections the identity (R136,
R48). -/
def Block.blank (c : Nat) : Block where
  core := c
  bx := 0
  bY := 0
  w := 1
  h := 1
  rect := 0
  ctx := 0
  table := 0
  saveBase := 0
  img := []
  route := 0
  wp := 0
  inst := 0
  retired := false
  killed := false
  uni := []
  uniPend := []
  tvec := 0
  tvecPend := []
  roles := []
  prioPend := []
  proj := []
  xbuf := []
  xpoison := []
  wbuf := []
  wfmt := []
  wgeo := []
  wpoison := []
  tileRows := []
  tileFmt := []
  tileGeo := []
  tileKeff := []
  tileTags := []
  tilePoison := []
  accM := []
  accSt := []
  accE := []
  accFixed := []
  quads := []
  seq := Seq.blank
  rnsCfg := 0
  rnsPend := []
  fixCnt := 0
  fixSeen := false
  misSeen := false
  rngSeen := false
  arrivals := []
  kept := []
  holds := []
  nextCopy := 0

def CoreRec.blank (c : Nat) : CoreRec := ⟨c, [], [], [], 0, 0, 0, 0, 0, 0, 0, 0, [], []⟩

def SlotEntry.blank (c : Nat) : SlotEntry := ⟨c, 0, 0, 0, 0⟩

def Thread.at (c q : Nat) (t : Thread) : Bool := t.core == c && t.slot == q

def State.thread? (s : State) (c q : Nat) : Option Thread := s.threads.find? (Thread.at c q)

/-- The thread of a slot; a slot that holds none reads as a blank one. -/
def State.thread (s : State) (c q : Nat) : Thread := (s.thread? c q).getD (Thread.blank c q)

/-- Change the thread of a slot, if it holds one. -/
def State.modThread (s : State) (c q : Nat) (f : Thread → Thread) : State :=
  { s with threads := s.threads.map (fun t => if t.at c q then f t else t) }

/-- The release latch takes the package it meets first (R292). -/
def setLatch (s : State) (c q pkg : Nat) : State :=
  s.modThread c q (fun t => { t with rfLatch := some (t.rfLatch.getD pkg) })

def State.block? (s : State) (c : Nat) : Option Block := s.blocks.find? (fun b => b.core == c)

def State.block (s : State) (c : Nat) : Block := (s.block? c).getD (Block.blank c)

def State.modBlock (s : State) (c : Nat) (f : Block → Block) : State :=
  { s with blocks := s.blocks.map (fun b => if b.core == c then f b else b) }

def State.coreRec (s : State) (c : Nat) : CoreRec :=
  (s.cores.find? (fun r => r.core == c)).getD (CoreRec.blank c)

/-- Change a core's record; a core without one gets one. -/
def State.modCore (s : State) (c : Nat) (f : CoreRec → CoreRec) : State :=
  if s.cores.any (fun r => r.core == c) then
    { s with cores := s.cores.map (fun r => if r.core == c then f r else r) }
  else { s with cores := s.cores ++ [f (CoreRec.blank c)] }

def State.slotEntry (s : State) (c : Nat) : SlotEntry :=
  (s.slots.find? (fun r => r.core == c)).getD (SlotEntry.blank c)

def State.setSlot (s : State) (e : SlotEntry) : State :=
  { s with slots := e :: s.slots.filter (fun r => r.core != e.core) }

/-- Threads of a core, in slot order. -/
def State.threadsOf (s : State) (c : Nat) : List Thread := s.threads.filter (fun t => t.core == c)

/-- The row, quarter and home lane of a slot (R27). -/
def rowOf (q : Nat) : Nat := q / 32
def quarterOf (q : Nat) : Nat := q / 32 % 4
def laneOf (q : Nat) : Nat := q % 32

/-- The numbers of R12. -/
def coreX (c : Nat) : Nat := c % 24
def coreY (c : Nat) : Nat := c / 24
def sheetOf (c : Nat) : Nat := coreY c / 8 * 4 + coreX c / 6
def cohortOf (c : Nat) : Nat := 2 * sheetOf c + coreY c / 4 % 2
def cidxOf (c : Nat) : Nat := coreY c % 4 * 6 + coreX c % 6
def coreAt (x y : Nat) : Nat := 24 * y + x

/-- COREPOS (R13). -/
def corePos (c : Nat) : Word :=
  BitVec.ofNat 32 (coreX c * 2 ^ 16 + coreY c * 2 ^ 12 + cohortOf c * 2 ^ 8 + sheetOf c * 2 ^ 5 + cidxOf c)

/-- A free choice, and the next. -/
def State.takeBool (s : State) : Bool × State :=
  (Config.freeBool s.freeCtr, { s with freeCtr := s.freeCtr + 1 })
def State.takeNat (s : State) (n : Nat) : Nat × State :=
  (Config.freeNat s.freeCtr % n, { s with freeCtr := s.freeCtr + 1 })

/-- An event that occurs next. -/
def State.post (s : State) (i : Instr) : State := { s with agenda := s.agenda ++ [i] }

/-- An event that occurs before all that waits: it is what the present one amounts to. -/
def State.postNext (s : State) (i : Instr) : State := { s with agenda := i :: s.agenda }

/-- The model's own bookkeeping (log entry 1): what is still to happen, and who acts. -/
def State.setAgenda (s : State) (l : List Instr) : State := { s with agenda := l }
def State.setTurns (s : State) (l : List Turn) : State := { s with turns := l }
def State.setActor (s : State) (a : Actor) : State := { s with actor := a }

def State.notice (s : State) (n : Notice) : State := { s with notices := s.notices ++ [n] }

/-- The package has passed stage 5 of its boot and is not halted: its kernel runs and its links are up (R317, R320). -/
def State.up (s : State) : Bool := s.regs.bootStage == 5 && !s.halted

/-- What the package kernel or a link brings to a package that is up. -/
def State.ifUp (s : State) (f : State → State) : State := if s.up then f s else s

/-- The package number of this package (R21). -/
def State.pkg (s : State) : Nat := s.regs.pkgNum.toNat

/-- Fields of a block's context that its accesses carry. -/
structure Agent where
  core : Nat
  ctx : Nat
  table : Nat
  deriving DecidableEq, Repr

def State.agent (s : State) (c : Nat) : Agent :=
  let b := s.block c
  ⟨c, b.ctx, b.table⟩

end Sys2Proof.Machine
end

