-- ==== Sys2Proof/Machine/Flags.lean ====
section
/-! DEFINITION. Floating-point formats, rounding and the sticky flags of TST (R82, R105 to R122). A finite value is an
exact dyadic number m × 2^e; every operation computes exactly and rounds once. -/

namespace Sys2Proof.Machine

/-- The flag bits of TST (R82). -/
abbrev Flags := BitVec 5
def Flags.nx : Flags := 0x01
def Flags.uf : Flags := 0x02
def Flags.of : Flags := 0x04
def Flags.dz : Flags := 0x08
def Flags.iv : Flags := 0x10

/-- What a format does above its largest finite value (R105, R119). -/
inductive FmtKind where
  | ieee | e4m3 | e2m1
  deriving DecidableEq, Repr

/-- A floating-point format: exponent and fraction widths, bias (R105). -/
structure FFmt where
  ebits : Nat
  fbits : Nat
  bias : Nat
  kind : FmtKind
  deriving DecidableEq, Repr

def fmtF32 : FFmt := ⟨8, 23, 127, .ieee⟩
def fmtF16 : FFmt := ⟨5, 10, 15, .ieee⟩
def fmtBF16 : FFmt := ⟨8, 7, 127, .ieee⟩
def fmtE5M2 : FFmt := ⟨5, 2, 15, .ieee⟩
def fmtE4M3 : FFmt := ⟨4, 3, 7, .e4m3⟩
def fmtE2M1 : FFmt := ⟨2, 1, 1, .e2m1⟩

/-- The format of a type code; integer codes have none (R339). -/
def fmtOf : Ty → FFmt
  | .f16 => fmtF16
  | .bf16 => fmtBF16
  | .e4m3 => fmtE4M3
  | .e5m2 => fmtE5M2
  | .e2m1 => fmtE2M1
  | _ => fmtF32

/-- A floating-point datum: a finite nonzero value is (−1)^neg × m × 2^e. -/
inductive FVal where
  | nan
  | inf (neg : Bool)
  | zero (neg : Bool)
  | fin (neg : Bool) (m : Nat) (e : Int)
  deriving DecidableEq, Repr

def FFmt.width (f : FFmt) : Nat := 1 + f.ebits + f.fbits

/-- The canonical NaN of a format; E2M1 has none (R116). -/
def FFmt.qnan (f : FFmt) : Nat :=
  match f.kind with
  | .ieee => (2 ^ f.ebits - 1) * 2 ^ f.fbits + 2 ^ (f.fbits - 1)
  | .e4m3 => 0x7F
  | .e2m1 => 0

def FFmt.signBit (f : FFmt) (neg : Bool) : Nat := if neg then 2 ^ (f.ebits + f.fbits) else 0

/-- The largest finite code of a sign (R105). -/
def FFmt.largest (f : FFmt) (neg : Bool) : Nat :=
  f.signBit neg + match f.kind with
  | .ieee => (2 ^ f.ebits - 1) * 2 ^ f.fbits - 1
  | .e4m3 => 0x7E
  | .e2m1 => 7

/-- Infinity; only the IEEE formats have it. -/
def FFmt.infinity (f : FFmt) (neg : Bool) : Nat := f.signBit neg + (2 ^ f.ebits - 1) * 2 ^ f.fbits

/-- The value of a code (R105, R106). -/
def FFmt.decode (f : FFmt) (c : Nat) : FVal :=
  let neg := bit c (f.ebits + f.fbits)
  let ex := c / 2 ^ f.fbits % 2 ^ f.ebits
  let fr := c % 2 ^ f.fbits
  if f.kind = .ieee ∧ ex = 2 ^ f.ebits - 1 then (if fr = 0 then .inf neg else .nan)
  else if f.kind = .e4m3 ∧ ex = 15 ∧ fr = 7 then .nan
  else if ex = 0 then
    if fr = 0 then .zero neg else .fin neg fr (1 - (f.bias : Int) - f.fbits)
  else .fin neg (fr + 2 ^ f.fbits) ((ex : Int) - f.bias - f.fbits)

/-- Bits of a number; 0 has none. -/
def bitLen (n : Nat) : Nat := if n = 0 then 0 else Nat.log2 n + 1

/-- The exponent ⌊log2⌋ of m × 2^e. -/
def topExp (m : Nat) (e : Int) : Int := e + bitLen m - 1

/-- `m × 2^e` rounded to a multiple of 2^q in the mode; `sticky` says that the exact value lies a little above. The
answer is the multiple and whether it differs from the exact value (R115). -/
def roundAt (rm : Rnd) (neg : Bool) (m : Nat) (e q : Int) (sticky : Bool) : Nat × Bool :=
  if q ≤ e then (m * 2 ^ (e - q).toNat, sticky)
  else
    let sh := (q - e).toNat
    let r := m / 2 ^ sh
    let rem := m % 2 ^ sh
    let half := 2 ^ (sh - 1)
    let inexact := rem ≠ 0 || sticky
    let up : Bool := match rm with
      | .rne => half < rem || (rem == half && (sticky || r % 2 == 1))
      | .rz => false
      | .ru => !neg && inexact
      | .rd => neg && inexact
    (if up then r + 1 else r, inexact)

/-- The mode turns an overflow of this sign into infinity (R119). -/
def toInfinity (rm : Rnd) (neg : Bool) : Bool :=
  match rm with
  | .rne => true
  | .rz => false
  | .ru => !neg
  | .rd => neg

/-- The code that overflow delivers (R119, R121). -/
def FFmt.overflow (f : FFmt) (rm : Rnd) (sat neg : Bool) : Nat :=
  match f.kind with
  | .e2m1 => f.largest neg
  | .e4m3 => if sat then f.largest neg else if toInfinity rm neg then f.qnan else f.largest neg
  | .ieee => if sat then f.largest neg else if toInfinity rm neg then f.infinity neg else f.largest neg

/-- The exponent of the smallest normal value. -/
def FFmt.emin (f : FFmt) : Int := 1 - f.bias

/-- An exact nonzero value rounded to `prec` significant bits, or to the format's subnormal grid where that is
coarser, and delivered in the format (R115, R119). `prec` is the format's own precision but for R129's grid. -/
def FFmt.roundPrec (f : FFmt) (prec : Nat) (rm : Rnd) (sat neg : Bool) (m : Nat) (e : Int) (sticky : Bool) :
    Nat × Flags :=
  let top := e + bitLen m - 1
  let qn := top - (prec - 1 : Nat)
  let q := max qn (f.emin - f.fbits)
  let rx := roundAt rm neg m e q sticky
  let un := roundAt rm neg m e qn sticky
  let tiny : Bool := qn + bitLen un.1 - 1 < f.emin
  let large := f.decode (f.largest false)
  let tooBig : Bool := match large with
    | .fin _ lm le => if q ≤ le then lm * 2 ^ (le - q).toNat < rx.1 else lm < rx.1 * 2 ^ (q - le).toNat
    | _ => false
  if tooBig then (f.overflow rm sat neg, Flags.of ||| Flags.nx)
  else if rx.1 = 0 then (f.signBit neg, if rx.2 then Flags.uf ||| Flags.nx else 0)
  else
    let u := rx.1 * 2 ^ (q - (f.emin - f.fbits)).toNat
    let s := bitLen u - (f.fbits + 1)
    let code := s * 2 ^ f.fbits + u / 2 ^ s
    (f.signBit neg + code, if rx.2 then (if tiny then Flags.uf ||| Flags.nx else Flags.nx) else 0)

/-- An exact nonzero value rounded to the format. -/
def FFmt.round (f : FFmt) (rm : Rnd) (sat neg : Bool) (m : Nat) (e : Int) (sticky : Bool) : Nat × Flags :=
  f.roundPrec (f.fbits + 1) rm sat neg m e sticky

/-- A datum delivered in a format, as a conversion delivers it (R121). -/
def FFmt.encode (f : FFmt) (rm : Rnd) (sat : Bool) : FVal → Nat × Flags
  | .nan => match f.kind with
    | .e2m1 => (0, Flags.iv)
    | _ => (f.qnan, 0)
  | .inf neg => match f.kind with
    | .e2m1 => (f.largest neg, Flags.iv)
    | .e4m3 => if sat then (f.largest neg, 0) else (f.qnan, Flags.iv)
    | .ieee => if sat then (f.largest neg, 0) else (f.infinity neg, 0)
  | .zero neg => (f.signBit neg, 0)
  | .fin neg m e => f.round rm sat neg m e false

/-- A conversion between floating formats (R121). Its example gives OF to 470.0 in E4M3 under RZ, whose own rounding is
448: so OF is set too where the value rounded to nearest is above the largest finite one, whatever the mode delivers
(DEDUCED, log entry 89). -/
def FFmt.narrow (f : FFmt) (rm : Rnd) (sat : Bool) (x : FVal) : Nat × Flags :=
  let r := f.encode rm sat x
  (r.1, r.2 ||| ((f.encode .rne sat x).2 &&& Flags.of))

/-- The signed integer numerator of a finite datum. -/
def signedM (neg : Bool) (m : Nat) : Int := if neg then -(m : Int) else m

/-- An exact signed value delivered; zero takes the sign of R118. -/
def FFmt.deliver (f : FFmt) (rm : Rnd) (x : Int) (e : Int) : Nat × Flags :=
  if x = 0 then (f.signBit (rm == .rd), 0) else f.round rm false (x < 0) x.natAbs e false

/-- The sum of two finite terms m × 2^e, over their smaller exponent. -/
def sumAt (m1 : Int) (e1 : Int) (m2 : Int) (e2 : Int) : Int × Int :=
  let e := min e1 e2
  (m1 * 2 ^ (e1 - e).toNat + m2 * 2 ^ (e2 - e).toNat, e)

/-- Addition (R117, R118, R400). -/
def fAdd (f : FFmt) (rm : Rnd) (a b : FVal) : Nat × Flags :=
  match a, b with
  | .nan, _ | _, .nan => (f.qnan, 0)
  | .inf s, .inf t => if s = t then (f.infinity s, 0) else (f.qnan, Flags.iv)
  | .inf s, _ | _, .inf s => (f.infinity s, 0)
  | .zero s, .zero t => (f.signBit (if s = t then s else rm == .rd), 0)
  | .zero _, .fin s m e | .fin s m e, .zero _ => f.round rm false s m e false
  | .fin s1 m1 e1, .fin s2 m2 e2 =>
    let r := sumAt (signedM s1 m1) e1 (signedM s2 m2) e2
    f.deliver rm r.1 r.2

/-- The exact product of two data, with the invalid case marked (R117). -/
def fProd (a b : FVal) : FVal × Bool :=
  match a, b with
  | .nan, _ | _, .nan => (.nan, false)
  | .inf _, .zero _ | .zero _, .inf _ => (.nan, true)
  | .inf s, .inf t => (.inf (s != t), false)
  | .inf s, .fin t _ _ | .fin t _ _, .inf s => (.inf (s != t), false)
  | .zero s, .zero t => (.zero (s != t), false)
  | .zero s, .fin t _ _ | .fin t _ _, .zero s => (.zero (s != t), false)
  | .fin s1 m1 e1, .fin s2 m2 e2 => (.fin (s1 != s2) (m1 * m2) (e1 + e2), false)

/-- Multiplication (R411). -/
def fMul (f : FFmt) (rm : Rnd) (a b : FVal) : Nat × Flags :=
  let p := fProd a b
  if p.2 then (f.qnan, Flags.iv) else f.encode rm false p.1

/-- Fused multiply-add (R118, R408): 0 × ∞ is invalid even when C is NaN. -/
def fFma (f : FFmt) (rm : Rnd) (a b c : FVal) : Nat × Flags :=
  let p := fProd a b
  if p.2 then (f.qnan, Flags.iv) else fAdd f rm p.1 c

/-- Order of two data, neither a NaN: −1, 0 or 1; −0 equals +0. -/
def fCompare (a b : FVal) : Int :=
  let num : FVal → Int × Int := fun v => match v with
    | .fin s m e => (signedM s m, e)
    | _ => (0, 0)
  match a, b with
  | .inf s, .inf t => if s = t then 0 else if s then -1 else 1
  | .inf s, _ => if s then -1 else 1
  | _, .inf s => if s then 1 else -1
  | x, y =>
    let d := sumAt (num x).1 (num x).2 (-(num y).1) (num y).2
    if d.1 < 0 then -1 else if d.1 = 0 then 0 else 1

def FVal.isNan : FVal → Bool
  | .nan => true
  | _ => false

def FVal.negZero : FVal → Bool
  | .zero s => s
  | _ => false

/-- Negative, ordering −0 below +0. -/
def fLess (a b : FVal) : Bool := fCompare a b < 0 || (fCompare a b == 0 && a.negZero && !b.negZero)

/-- FMIN and FMAX on codes: the result is an operand's code (R410). -/
def fMin (f : FFmt) (a b : Nat) : Nat :=
  let x := f.decode a
  let y := f.decode b
  if x.isNan && y.isNan then f.qnan else if x.isNan then b else if y.isNan then a
  else if fLess y x then b else a

def fMax (f : FFmt) (a b : Nat) : Nat :=
  let x := f.decode a
  let y := f.decode b
  if x.isNan && y.isNan then f.qnan else if x.isNan then b else if y.isNan then a
  else if fLess x y then b else a

/-- FCMP (R402). -/
def fCond (cond : Nat) (a b : FVal) : Bool :=
  let un := a.isNan || b.isNan
  let c := fCompare a b
  match cond with
  | 0 => !un && c == 0
  | 1 => un || c != 0
  | 2 => !un && c < 0
  | 3 => !un && c ≤ 0
  | 4 => !un && 0 < c
  | 5 => !un && 0 ≤ c
  | 6 => un
  | _ => !un

/-- The class mask of a code (R401). -/
def fClass (f : FFmt) (c : Nat) : Nat :=
  let neg := bit c (f.ebits + f.fbits)
  let ex := c / 2 ^ f.fbits % 2 ^ f.ebits
  match f.decode c with
  | .nan => 2 ^ 8
  | .inf _ => if neg then 2 ^ 0 else 2 ^ 7
  | .zero _ => if neg then 2 ^ 3 else 2 ^ 4
  | .fin _ _ _ => if ex = 0 then (if neg then 2 ^ 2 else 2 ^ 5) else (if neg then 2 ^ 1 else 2 ^ 6)

/-- Rounding to an integral value of the same format, with no flag (R412). -/
def fRound (f : FFmt) (rm : Rnd) (c : Nat) : Nat :=
  match f.decode c with
  | .nan => f.qnan
  | .inf _ | .zero _ => c
  | .fin s m e =>
    if 0 ≤ e then c
    else
      let r := (roundAt rm s m e 0 false).1
      if r = 0 then f.signBit s else (f.round .rz false s r 0 false).1

/-- The least and greatest value of an integer type (R103). -/
def tyMin (t : Ty) : Int := if t.signed then -(2 ^ (t.bits - 1) : Int) else 0
def tyMax (t : Ty) : Int := if t.signed then 2 ^ (t.bits - 1) - 1 else 2 ^ t.bits - 1

/-- The value of the low bits of a register or pair under an integer type (R103, R399). -/
def tyValue (t : Ty) (v : Nat) : Int :=
  let u := v % 2 ^ t.bits
  if t.signed && bit u (t.bits - 1) then (u : Int) - 2 ^ t.bits else u

/-- An integer value written in a type: modulo 2^n, the narrow types extended to 32 bits (R104, R399). -/
def tyEncode (t : Ty) (x : Int) : Nat :=
  let u := (x % (2 ^ t.bits : Int)).toNat
  if t.bits < 32 then (tyValue t u % (2 ^ 32 : Int)).toNat else u

/-- Float to integer (R122). -/
def floatToInt (t : Ty) (rm : Rnd) (v : FVal) : Int × Flags :=
  match v with
  | .nan => (0, Flags.iv)
  | .inf s => (if s then tyMin t else tyMax t, Flags.iv)
  | .zero _ => (0, 0)
  | .fin s m e =>
    let r := roundAt rm s m e 0 false
    let x := signedM s r.1
    if x < tyMin t then (tyMin t, Flags.iv) else if tyMax t < x then (tyMax t, Flags.iv)
    else (x, if r.2 then Flags.nx else 0)

/-- Integer to float (R122). -/
def intToFloat (f : FFmt) (rm : Rnd) (sat : Bool) (x : Int) : Nat × Flags :=
  if x = 0 then (0, 0) else f.round rm sat (x < 0) x.natAbs 0 false

/-- FCVT on the low bits of its source (R403, R404). Between F16 and BF16, and between E4M3 and E5M2, whose widths are
equal, R403's exact result need not exist: such a value rounds in the selected mode with the flags of R119 and R121
(DESIGN CHOICE, log entry 57). -/
def convert (dty sty : Ty) (rm : Rnd) (sat : Bool) (v : Nat) : Nat × Flags :=
  if sty.isInt then
    let x := tyValue sty v
    if dty.isInt then (tyEncode dty (if sat then clampInt x (tyMin dty) (tyMax dty) else x), 0)
    else intToFloat (fmtOf dty) rm sat x
  else
    let x := (fmtOf sty).decode (v % 2 ^ (fmtOf sty).width)
    if dty.isInt then
      let r := floatToInt dty rm x
      (tyEncode dty r.1, r.2)
    else (fmtOf dty).narrow rm sat x

/-- The quotient of two finite nonzero values (R405): enough bits for one correct rounding. -/
def fQuot (f : FFmt) (rm : Rnd) (neg : Bool) (m1 : Nat) (e1 : Int) (m2 : Nat) (e2 : Int) : Nat × Flags :=
  let sh := 64 + bitLen m2
  let n := m1 * 2 ^ sh
  f.round rm false neg (n / m2) (e1 - e2 - sh) (n % m2 ≠ 0)

/-- FDIV (R405). -/
def fDiv (f : FFmt) (rm : Rnd) (a b : FVal) : Nat × Flags :=
  match a, b with
  | .nan, _ | _, .nan => (f.qnan, 0)
  | .inf _, .inf _ | .zero _, .zero _ => (f.qnan, Flags.iv)
  | .inf s, .zero t | .inf s, .fin t _ _ => (f.infinity (s != t), 0)
  | .fin s _ _, .zero t => (f.infinity (s != t), Flags.dz)
  | .zero s, .inf t | .zero s, .fin t _ _ | .fin s _ _, .inf t => (f.signBit (s != t), 0)
  | .fin s m1 e1, .fin t m2 e2 => fQuot f rm (s != t) m1 e1 m2 e2

/-- The integer square root, by one bit per step. -/
def isqrtGo : Nat → Nat → Nat → Nat
  | 0, _, r => r
  | k + 1, n, r => isqrtGo k n (if (r + 2 ^ k) * (r + 2 ^ k) ≤ n then r + 2 ^ k else r)

def isqrt (n : Nat) : Nat := isqrtGo (bitLen n / 2 + 1) n 0

/-- √(m × 2^e) as bits with a sticky bit: the radicand is brought to an even exponent and at least 128 bits. -/
def fRootParts (m : Nat) (e : Int) : Nat × Int × Bool :=
  let sh : Nat := 128 + (if (e - 128) % 2 = 0 then 0 else 1)
  let n := m * 2 ^ sh
  let r := isqrt n
  (r, (e - sh) / 2, r * r ≠ n)

/-- SQRT (R475). -/
def fSqrt (f : FFmt) (rm : Rnd) (a : FVal) : Nat × Flags :=
  match a with
  | .nan => (f.qnan, 0)
  | .zero s => (f.signBit s, 0)
  | .inf false => (f.infinity false, 0)
  | .inf true | .fin true _ _ => (f.qnan, Flags.iv)
  | .fin false m e =>
    let p := fRootParts m e
    f.round rm false false p.1 p.2.1 p.2.2

/-- RCP (R458). -/
def fRcp (f : FFmt) (rm : Rnd) (a : FVal) : Nat × Flags := fDiv f rm (.fin false 1 0) a

/-- RSQ (R458): 1 / √x. The reciprocal of the root is formed from x itself: √(2^k / x), with k large and even. -/
def fRsq (f : FFmt) (rm : Rnd) (a : FVal) : Nat × Flags :=
  match a with
  | .nan => (f.qnan, 0)
  | .zero s => (f.infinity s, Flags.dz)
  | .inf false => (f.signBit false, 0)
  | .inf true | .fin true _ _ => (f.qnan, Flags.iv)
  | .fin false m e =>
    let k : Nat := 256 + (if e % 2 = 0 then 0 else 1)
    let q := 2 ^ k / m
    let r := isqrt q
    f.round rm false false r (-(e + k) / 2) (r * r * m ≠ 2 ^ k)

/-- The IEEE sum of two F32 codes as atomics and collectives form it, with no flag kept (R365, R310). -/
def f32Add (a b : Nat) : Nat := (fAdd fmtF32 .rne (fmtF32.decode a) (fmtF32.decode b)).1

end Sys2Proof.Machine
end

