-- ==== Sys2Proof/Machine/Memory.lean ====
section
/-! DEFINITION. Memory below translation: pod physical addresses and holes (R196, R197), homes and slices (R186, R190,
R191), the lines that a slice holds and the copies of borrowed extents among them (R186, R303), the L1 with its dirty
bytes and update-only regions (R182 to R184, R189), foreign ways (R188) and poison (R285). -/

namespace Sys2Proof.Machine

/-! ## Addresses -/

def paPkg (pa : Nat) : Nat := pa / 2 ^ 54 % 1024
def paTier (pa : Nat) : Nat := pa / 2 ^ 50 % 16
def paOff (pa : Nat) : Nat := pa % 2 ^ 50
def paStack (pa : Nat) : Nat := paOff pa / 2 ^ 36 % 16
def mkPa (pkg tier off : Nat) : Nat := pkg * 2 ^ 54 + tier * 2 ^ 50 + off

/-- The address belongs to another package. -/
def State.remote (s : State) (pa : Nat) : Bool := paPkg pa != s.pkg

/-- The physical channels of a stack that are live, ascending (R190). -/
def State.liveChannels (s : State) (stack : Nat) : List Nat :=
  (List.range 32).filter (fun ch => !s.chanDead.contains (stack, ch))

def State.numChannels (s : State) (stack : Nat) : Nat := (s.liveChannels stack).length

/-- The bytes of tier 3 that one register or entry holds: its first offset and size (R197 and the lists it names). -/
def t3Cell (off : Nat) : Option (Nat × Nat) :=
  let fixed : List (Nat × Nat) :=
    [(0x1000000, 4), (0x1000008, 4), (0x1000040, 8), (0x1100080, 8), (0x1100088, 8), (0x1100090, 4), (0x11000A0, 8),
     (0x11000A8, 4), (0x11000AC, 4), (0x11000B0, 8), (0x1300000, 8), (0x1300008, 8), (0x1300010, 8), (0x1300018, 4),
     (0x1300020, 4), (0x1500000, 4), (0x1500004, 4), (0x1500008, 4), (0x150000C, 4), (0x1500010, 4), (0x1500014, 4),
     (0x1600000, 8)]
  let arrays : List (Nat × Nat × Nat) :=
    [(0x1100000, 8, 16), (0x1200000, 16, 384), (0x1400000, 16, 8192), (0x1420000, 16, 4096), (0x1430000, 32, 256),
     (0x1440000, 2, 65536), (0x1500020, 4, 8), (0x1500100, 32, 16), (0x1602000, 2, 4096)]
  match fixed.find? (fun r => r.1 ≤ off && off < r.1 + r.2) with
  | some r => some r
  | none =>
    match arrays.find? (fun r => r.1 ≤ off && off < r.1 + r.2.1 * r.2.2) with
    | some r => some (r.1 + (off - r.1) / r.2.1 * r.2.1, r.2.1)
    | none => none

/-- An access of n bytes falls in a hole (R197, R192). What another package's stacks and its ordering code leave live
this package is not told: 32 channels a stack, and an LP6 pool (DESIGN CHOICE, log entry 68). -/
def State.hole (s : State) (pa n : Nat) : Bool :=
  let off := paOff pa
  match paTier pa with
  | 0 => off / 2 ^ 40 != 0 ||
      (off % 2 ^ 36 + n > (if s.remote pa then 32 else s.numChannels (paStack pa)) * 2 ^ 31)
  | 1 => off + n > 2 ^ 41 || (!s.remote pa && !Config.lp6)
  | 2 => s.remote pa || off + n > 2 ^ 40
  | 3 => s.remote pa || match t3Cell off with
      | some r => off + n > r.1 + r.2
      | none => true
  | _ => true

/-- The 512-byte block of a stack offset; its logical channel; its local byte address lam (R190). -/
def paBlock (pa : Nat) : Nat := paOff pa % 2 ^ 36 / 512
def State.logicalChannel (s : State) (pa : Nat) : Nat := paBlock pa % s.numChannels (paStack pa)
def State.localByte (s : State) (pa : Nat) : Nat := paBlock pa / s.numChannels (paStack pa) * 512 + pa % 512

/-- The n-th live physical channel of a stack (R190). -/
def State.physicalChannel (s : State) (pa : Nat) : Nat :=
  (s.liveChannels (paStack pa)).getD (s.logicalChannel pa) 0

/-- Where a byte of HBM lies in its channel (R191). -/
structure HbmPlace where
  row : Nat
  column : Nat
  bank : Nat
  group : Nat
  pseudo : Nat
  deriving DecidableEq, Repr

/-- The fields of a local byte address (R191). -/
def hbmPlace (lam : Nat) : HbmPlace where
  row := bits lam 30 15
  column := bits lam 14 14 * 2 ^ 9 + bits lam 8 0
  bank := bits lam 13 12
  group := bits lam 11 10
  pseudo := bits lam 9 9

/-- The bank of an HBM byte, numbered over the package: stack, physical channel, pseudo-channel, group, bank (log
entry 13). -/
def State.bankOf (s : State) (pa : Nat) : Nat :=
  let p := hbmPlace (s.localByte pa)
  (((paStack pa * 32 + s.physicalChannel pa) * 2 + p.pseudo) * 4 + p.group) * 4 + p.bank

/-- The home slice of a local address (R186, R190). -/
def State.sliceOf (s : State) (pa : Nat) : Nat :=
  if paTier pa = 0 then paStack pa * 32 + s.physicalChannel pa else paOff pa / 512 % 512

/-- The LP6 controller of a byte of the pool, in units of 4 KiB, and where it lies in the controller's part (R17). Which
controller serves a unit R17 leaves open: the unit's number modulo 8, in the order of the quotients (DESIGN CHOICE, log
entry 85). -/
def lp6Controller (pa : Nat) : Nat := paOff pa / 4096 % 8
def lp6Local (pa : Nat) : Nat := paOff pa / 32768 * 4096 + paOff pa % 4096

/-- The set of its slice that an address falls in: the line's number within the slice, modulo 256 (R186; which bits
choose the set the manual leaves open, log entry 47). -/
def State.sliceSet (s : State) (pa : Nat) : Nat :=
  (if paTier pa = 0 then s.localByte pa / 512 else paOff pa / 512 / 512) % 256

/-- The size of a grain (R183). -/
def grainBytes (g : Nat) : Nat := if g = 0 then 32 else if g = 1 then 128 else 512

/-! ## The borrowed-extent table (R297) and the copies of borrowed sectors (R186, R303) -/

def beState (e : BitVec 128) : Nat := bits e.toNat 2 0
def beLease (e : BitVec 128) : Nat := bits e.toNat 63 48
def beLender (e : BitVec 128) : Nat := bits e.toNat 47 32
def beExtent (e : BitVec 128) : Nat := bits e.toNat 31 19
def bePw (e : BitVec 128) : Bool := e.getLsbD 18
def bePr (e : BitVec 128) : Bool := e.getLsbD 17
def beExpiry (e : BitVec 128) : Nat := bits e.toNat 127 64

def State.borrowEntry (s : State) (pa : Nat) : BitVec 128 := SMap.get s.borrowed (paOff pa / 2 ^ 28)

/-- The key, in `lenderMem`, of a tier-2 byte: its lender, the lender's extent, the byte within it (R197, R297). -/
def State.lenderAddr (s : State) (pa : Nat) : Nat :=
  let e := s.borrowEntry pa
  (beLender e * 8192 + beExtent e) * 2 ^ 28 + pa % 2 ^ 28

/-- The 32 bytes of a sector, lowest address first, and the sector that bytes spell. -/
def sectorBytes (x : Sector) : List Byte := (List.range 32).map (fun i => x.extractLsb' (8 * i) 8)
def sectorOfBytes (bs : List Byte) : Sector := BitVec.ofNat 256 (leNat (bs.take 32))

/-- Bytes laid over a sector from an offset upwards. -/
def sectorPut (x : Sector) (off : Nat) (bs : List Byte) : Sector :=
  sectorOfBytes ((sectorBytes x).take off ++ bs ++ (sectorBytes x).drop (off + bs.length))

/-- A sector with the bytes of a mask taken from another. -/
def sectorMerge (x y : Sector) (m : BitVec 32) : Sector :=
  sectorOfBytes ((List.range 32).map (fun i => (if m.getLsbD i then y else x).extractLsb' (8 * i) 8))

def maskRange (off n : Nat) : BitVec 32 := BitVec.ofNat 32 ((2 ^ n - 1) * 2 ^ off)

/-- The copy of a borrowed sector at its slice, if there is one. -/
def State.borrowLine? (s : State) (k : Nat) : Option BorrowLine := s.borrowLines.find? (fun l => l.sector == k)

/-- A borrowed sector as its slice sees it: the copy, else the lender's bytes. -/
def borrowSector (s : State) (k : Nat) : Sector :=
  match s.borrowLine? k with
  | some l => l.data
  | none => sectorOfBytes (readBytes s.lenderMem (s.lenderAddr (32 * k)) 32)

/-- A copy of a borrowed sector, dirty or clean; one that is dirty stays so, in its place among the oldest. -/
def putBorrow (s : State) (k : Nat) (x : Sector) (dirty : Bool) : State :=
  if s.borrowLines.any (fun l => l.sector == k && (l.dirty || !dirty)) then
    { s with borrowLines := s.borrowLines.map (fun l => if l.sector == k then { l with data := x } else l) }
  else { s with borrowLines := s.borrowLines.filter (fun l => l.sector != k) ++ [⟨k, x, dirty⟩] }

/-- Dirty copies that pass a test written to their lender; they stay as clean ones (R303). -/
def borrowWriteBack (s : State) (p : Nat → Bool) : State :=
  { s with
    lenderMem := (s.borrowLines.filter (fun l => l.dirty && p l.sector)).foldl
      (fun m l => writeBytes m (s.lenderAddr (32 * l.sector)) (sectorBytes l.data)) s.lenderMem
    borrowLines := s.borrowLines.map (fun l => if p l.sector then { l with dirty := false } else l) }

/-- Clean copies that pass a test are dropped (R225, R301). -/
def dropBorrowed (s : State) (p : Nat → Bool) : State :=
  { s with borrowLines := s.borrowLines.filter (fun l => l.dirty || !p l.sector) }

/-! ## The lines that a slice holds (R186, R187) -/

/-- The lines of foreign ways in one set of a slice; they fill the same 16 ways (R187, R188). -/
def foreignLines (s : State) (sl set : Nat) : List Nat :=
  ((s.foreignWays.filter (fun f => f.1 * 32 + f.2.1 / 16 % 32 == sl && f.2.1 / 16 / 512 % 256 == set)).map
    (fun f => f.2.1 / 16)).dedup

/-- A line leaves its slice: what it holds of a borrowed extent goes back to its lender first (R303). -/
def evictLine (s : State) (e : Nat × Nat) : State :=
  let mine := fun (k : Nat) => paTier (32 * k) == 2 && k / 16 == e.2
  let s := dropBorrowed (borrowWriteBack s mine) mine
  { s with sliceLines := s.sliceLines.filter (· != e) }

/-- Room for one more line in a set of a slice: a line of the set, freely chosen, leaves when its 16 ways are full. -/
def sliceRoom (s : State) (sl set : Nat) : State :=
  let same := s.sliceLines.filter (fun e => e.1 == sl && s.sliceSet (512 * e.2) == set)
  if same.length + (foreignLines s sl set).length < 16 then s
  else
    let ch := s.takeNat same.length
    evictLine ch.2 (same.getD ch.1 (sl, 0))

/-- A local line comes into its home slice, if it is not there (R186). -/
def touchLine (s : State) (pa : Nat) : State :=
  if s.remote pa || 2 < paTier pa || s.sliceLines.contains (s.sliceOf pa, pa / 512) then s
  else
    let s := sliceRoom s (s.sliceOf pa) (s.sliceSet pa)
    { s with sliceLines := s.sliceLines ++ [(s.sliceOf pa, pa / 512)] }

/-! ## Bytes at the home -/

def sectorPoisoned (s : State) (pa : Nat) : Bool := s.poison.contains (pa / 32)

/-- The sectors that n bytes touch. -/
def sectorsOf (pa n : Nat) : List Nat :=
  if n = 0 then [] else (List.range ((pa + n - 1) / 32 - pa / 32 + 1)).map (pa / 32 + ·)

/-- A byte as its home holds it: of a borrowed extent, as the slice sees it. -/
def memByte (s : State) (pa : Nat) : Byte :=
  if paTier pa = 2 then (borrowSector s (pa / 32)).extractLsb' (8 * (pa % 32)) 8 else SMap.get s.mem pa

def memBytes (s : State) (pa : Nat) : Nat → List Byte
  | 0 => []
  | n + 1 => memByte s pa :: memBytes s (pa + 1) n

/-- The part of n bytes at `pa` that falls in a sector, as an offset in the sector and the bytes. -/
def sectorPart (pa : Nat) (bs : List Byte) (k : Nat) : Nat × List Byte :=
  let lo := Nat.max pa (32 * k)
  (lo - 32 * k, (bs.drop (lo - pa)).take (32 * k + 32 - lo))

/-- The numbers that tell writers apart in notes (R330); 0 is for any other. -/
def threadWriter (c q : Nat) : Nat := 1 + 2048 * c + q
def copyWriter (id : Nat) : Nat := 2 ^ 20 + id

/-- A byte as the latest store has left it: dirty in the L1 of core `c`, else in another's, else moved sideways, else
as its home holds it. -/
def heldByte (s : State) (c pa : Nat) : Byte :=
  let has := fun (p : CoreRec → L1Sector → Bool) => s.cores.findSome? (fun r =>
    r.sectors.find? (fun x => x.sector == pa / 32 && x.dirty.getLsbD (pa % 32) && p r x))
  match (((has (fun r x => r.core == c && x.foreign.isNone)).or (has (fun _ x => x.foreign.isNone))).or
      (has (fun _ _ => true))) with
  | some x => x.data.extractLsb' (8 * (pa % 32)) 8
  | none => memByte s pa

/-- A write of some bytes is about to be executed: what it replaces is noted, while a block is bound, as what a fetch
may still find in an instruction cache (R330). -/
def noteReplaced (s : State) (who : Nat) (addrs : List Nat) : State :=
  { s with replaced := if addrs.isEmpty || s.blocks.all (·.retired) then s.replaced
    else ⟨who, addrs.map (fun a => (a, heldByte s ((who - 1) / 2048) a))⟩ :: s.replaced }

/-- A writer of notes releases what it has written, or ends: it stands as it is for every later launch (R237, R330). -/
def noteRelease (s : State) (who : Nat) : State :=
  { s with replaced := if s.replaced.any (fun n => n.who == who) then ⟨who, []⟩ :: s.replaced else s.replaced }

/-- A byte as it stood in a version of memory. -/
def byteAt (s : State) (v pa : Nat) : Byte :=
  match (((s.replaced.take (s.replaced.length - v)).flatMap (·.old)).filter (fun w => w.1 == pa)).getLast? with
  | some w => w.2
  | none => memByte s pa

/-- The package's copies of sectors of another package go when one of its own writes to them is performed, so that an
acquire at any scope finds what happens before it (R213, R222; DEDUCED, log entry 23). -/
def dropRemote (s : State) (ks : List Nat) : State :=
  { s with
    cores := s.cores.map (fun r => { r with sectors := r.sectors.filter (fun x => x.dirty != 0 || !ks.contains x.sector) })
    foreignWays := s.foreignWays.filter (fun f => !ks.contains f.2.1) }

/-- Bytes stored at their home. A borrowed sector becomes dirty at its slice; its lender keeps its own bytes until they
are written back (R303). -/
def putBytes (s : State) (pa : Nat) (bs : List Byte) : State :=
  if paTier pa = 2 then
    (sectorsOf pa bs.length).foldl (fun s k =>
      let p := sectorPart pa bs k
      putBorrow s k (sectorPut (borrowSector s k) p.1 p.2) true) s
  else { s with mem := writeBytes s.mem pa bs }

/-- A write performed at the home of its bytes, by the writer `who`. A write of a whole sector clears its mark (R285).
-/
def memWrite (s : State) (pa : Nat) (bs : List Byte) (who : Nat := 0) : State :=
  let ks := sectorsOf pa bs.length
  let whole := ks.filter (fun k => pa ≤ k * 32 && k * 32 + 32 ≤ pa + bs.length)
  let s := noteReplaced s who ((List.range bs.length).map (pa + ·))
  let s := putBytes { s with poison := s.poison.filter (fun k => !whole.contains k) } pa bs
  if s.remote pa then dropRemote s ks else s

/-- Bytes written under a mask that starts at `pa`. -/
def memWriteMasked (s : State) (pa : Nat) : List (Bool × Byte) → State
  | [] => s
  | (on, b) :: r => memWriteMasked (if on then { s with mem := SMap.set s.mem pa b } else s) (pa + 1) r

/-- The bytes of a sector under a mask written at their home. -/
def memWriteSector (s : State) (k : Nat) (m : BitVec 32) (x : Sector) : State :=
  if paTier (32 * k) = 2 then putBorrow s k (sectorMerge (borrowSector s k) x m) true
  else memWriteMasked s (32 * k) ((List.range 32).map (fun i => (m.getLsbD i, x.extractLsb' (8 * i) 8)))

/-! ## The atomic operations (R365) -/

/-- The new value of an atomic operation on `old` with operands `b` and, for CAS, `c`. -/
def aopValue (aop : Nat) (ty : Ty) (old b c : Nat) : Nat :=
  let m := 2 ^ ty.bits
  let sv := fun x => tyValue ty x
  match aop with
  | 0 => if ty == .f32 then f32Add old b else (old + b) % m
  | 1 => old &&& b
  | 2 => old ||| b
  | 3 => old ^^^ b
  | 4 => if ty == .f32 then fMin fmtF32 old b else if sv b < sv old then b else old
  | 5 => if ty == .f32 then fMax fmtF32 old b else if sv old < sv b then b else old
  | 6 => b
  | 7 => if b ≤ old then 0 else old + 1
  | 8 => if old = 0 ∨ b < old then b else old - 1
  | _ => if old = b then c else old

/-! ## L1 -/

def State.l1Sector (s : State) (c k : Nat) : Option L1Sector :=
  (s.coreRec c).sectors.find? (fun x => x.sector == k)

def setSector (x : L1Sector) (l : List L1Sector) : List L1Sector :=
  if l.any (fun y => y.sector == x.sector) then l.map (fun y => if y.sector == x.sector then x else y)
  else l ++ [x]

/-- A sector's dirty bytes written to its home, with its mark (R182, R285); the sector stays as a clean copy. -/
def writeBackSector (s : State) (c : Nat) (x : L1Sector) : State :=
  if x.dirty = 0 then s
  else
    let s := memWriteSector (touchLine s (32 * x.sector)) x.sector x.dirty x.data
    let s := { s with
      poison := if x.poison then insertNat s.poison x.sector
        else if x.dirty = BitVec.allOnes 32 then s.poison.filter (· != x.sector) else s.poison }
    s.modCore c (fun r => { r with sectors := setSector { x with dirty := 0 } r.sectors })

/-- The dirty bytes that a core has moved sideways (R189) leave the L1s that hold them for their homes. -/
def writeBackVictims (s : State) (c : Nat) (p : L1Sector → Bool) : State :=
  s.cores.foldl (fun s r =>
    (r.sectors.filter (fun x => x.foreign == some c && p x)).foldl (fun s x => writeBackSector s r.core x) s) s

/-- The dirty bytes of the sectors that pass a test leave a core's L1 for their homes. What the core had moved sideways
is older than what it holds now, and goes before it (R214). -/
def writeBackIf (s : State) (c : Nat) (p : L1Sector → Bool) : State :=
  let s := writeBackVictims s c p
  ((s.coreRec c).sectors.filter (fun x => p x)).foldl (fun s x => writeBackSector s c x) s

/-- One delta applied to its element at the home, with its mark; a poisoned element takes none (R224, R285). -/
def applyDelta (s : State) (d : Delta) : State :=
  let n := d.ty.bits / 8
  if sectorPoisoned s d.addr then s
  else
    let s := memWrite s d.addr (leBytes (aopValue d.aop d.ty (leNat (memBytes s d.addr n)) d.value.toNat 0) n)
    { s with poison := if d.poison then insertNat s.poison (d.addr / 32) else s.poison }

/-- The dirty bytes of a span leave every L1 that holds some (R216). -/
def obtainDirty (s : State) (lo hi : Nat) : State :=
  s.cores.foldl (fun s r =>
    if r.sectors.any (fun x => x.dirty != 0 && lo ≤ x.sector * 32 && x.sector * 32 < hi) then
      writeBackIf s r.core (fun x => lo ≤ x.sector * 32 && x.sector * 32 < hi) else s) s

/-- The order in which several cores' deltas are merged: R224 leaves it open, so it is a free choice of its own each
time. -/
def mergeOrder (s : State) (l : List CoreRec) : List CoreRec :=
  sortBy (fun a b => Config.freeNat (s.freeCtr + a.core) ≤ Config.freeNat (s.freeCtr + b.core)) l

/-- The deltas of a span leave every update-only region that holds some, and are merged, core by core, in a free order
(R216, R224; DESIGN CHOICE, log entry 84). -/
def obtainDeltas (s : State) (lo hi : Nat) : State :=
  let mine := fun (d : Delta) => lo ≤ d.addr && d.addr < hi
  let merge := fun (s : State) (r : CoreRec) =>
    let s := (r.updates.flatMap (fun u => u.deltas.filter (fun d => mine d))).foldl applyDelta s
    s.modCore r.core (fun r => { r with
      updates := (r.updates.map (fun u => { u with deltas := u.deltas.filter (fun d => !mine d) })).filter
        (fun u => !u.deltas.isEmpty) })
  match s.cores.filter (fun r => r.updates.any (fun u => u.deltas.any (fun d => mine d))) with
  | [] => s
  | [r] => merge s r
  | l => (mergeOrder s l).foldl merge { s with freeCtr := s.freeCtr + Config.numCores }

/-- The span of whole grains that n bytes touch (R183). -/
def grainLo (pa g : Nat) : Nat := pa / grainBytes g * grainBytes g
def grainHi (pa n g : Nat) : Nat := (pa + n - 1) / grainBytes g * grainBytes g + grainBytes g

/-- The dirty bytes of the grains that n bytes touch, from every core, then every delta of them (R216). -/
def gather (s : State) (pa n g : Nat) : State :=
  obtainDeltas (obtainDirty s (grainLo pa g) (grainHi pa n g)) (grainLo pa g) (grainHi pa n g)

/-- What an access performed at the home first obtains (R216): the line, and what the cores hold of the grain. A
borrowed sector that the slice does not hold is fetched from its lender. -/
def obtain (s : State) (pa n g : Nat) : State :=
  let s := gather (touchLine s pa) pa n g
  if paTier pa = 2 then (sectorsOf pa n).foldl (fun s k => putBorrow s k (borrowSector s k) false) s else s

/-- The deltas of a core that pass a test are merged at their homes, each with its grain (R184, R216, R224). -/
def mergeUpdates (s : State) (c : Nat) (p : Delta → Bool) : State :=
  ((s.coreRec c).updates.flatMap (fun u => u.deltas.filter (fun d => p d))).foldl
    (fun s d => obtain s d.addr (d.ty.bits / 8) d.grain) s

/-- A read performed at the home (R216): the bytes, and whether any sector is poisoned. `g` is the grain that it
obtains; for an access that comes through no page, whose grain R183 and R216 leave open, 512 bytes (DESIGN CHOICE, log
entry 80). -/
def homeRead (s : State) (pa n : Nat) (g : Nat := 2) : State × List Byte × Bool :=
  let s := obtain s pa n g
  (s, memBytes s pa n, (sectorsOf pa n).any (fun k => s.poison.contains k))

/-- The sectors that pass a test keep only their dirty bytes; those without any are dropped. -/
def dropClean (s : State) (c : Nat) (p : L1Sector → Bool) : State :=
  s.modCore c (fun r => { r with sectors :=
    (r.sectors.filter (fun x => x.dirty != 0 || !p x)).map (fun x => if p x then { x with valid := x.dirty } else x) })

/-- A write performed at the home (R216), by an agent on core `c`, whose own clean copies go. -/
def homeWrite (s : State) (c : Option Nat) (pa : Nat) (bs : List Byte) (g : Nat := 2) (who : Nat := 0) : State :=
  let s := memWrite (obtain s pa bs.length g) pa bs who
  let drop := fun (x : L1Sector) => (sectorsOf pa bs.length).contains x.sector
  match c with
  | some c => dropClean s c drop
  | none => s

/-- What an access performed at the target, past the slice, first obtains (R200, R216): the slice keeps no copy of a
borrowed sector. -/
def obtainUncached (s : State) (pa n g : Nat) : State :=
  let s := gather s pa n g
  if paTier pa = 2 then
    let mine := fun (k : Nat) => (sectorsOf pa n).contains k
    dropBorrowed (borrowWriteBack s mine) mine
  else s

/-- A read performed at the target (R200): the lender of a borrowed sector. -/
def uncachedRead (s : State) (pa n g : Nat) : State × List Byte × Bool :=
  let s := obtainUncached s pa n g
  (s, memBytes s pa n, (sectorsOf pa n).any (fun k => s.poison.contains k))

/-- A write performed at the target (R200), by an agent on core `c`, whose own clean copies go. -/
def uncachedWrite (s : State) (c : Option Nat) (pa : Nat) (bs : List Byte) (g : Nat) (who : Nat := 0) : State :=
  let s := memWrite (obtainUncached s pa bs.length g) pa bs who
  let mine := fun (k : Nat) => (sectorsOf pa bs.length).contains k
  let s := if paTier pa = 2 then dropBorrowed (borrowWriteBack s mine) mine else s
  match c with
  | some c => dropClean s c (fun x => mine x.sector)
  | none => s

/-- The package's own physical writes that no cache holds (R83). -/
def physWrite (s : State) (pa v n : Nat) : State := homeWrite s none pa (leBytes v n)

def physRead (s : State) (pa n : Nat) : State × Nat × Bool :=
  let r := homeRead s pa n
  (r.1, leNat r.2.1, r.2.2)

/-- The regions that a core holds in a set of its L1 (R182). -/
def regionsIn (r : CoreRec) (set : Nat) : List Nat :=
  ((r.sectors.map (fun (x : L1Sector) => x.sector / 16)) ++ (r.updates.map (fun (u : UpdateRegion) => u.region))).dedup.filter
    (fun k => k % 256 == set)

/-- A core with a live transaction slot has its transaction region (R185). -/
def State.hasTx (s : State) (c : Nat) : Bool := s.threads.any (fun t => t.core == c && t.tx.isSome)

def State.ways (s : State) (c : Nat) : Nat := if s.hasTx c then 9 else 12

/-- The candidates for a core's victims, inside its cohort, in the order of R189. North is y − 1, which the manual does
not say (DESIGN CHOICE, log entry 67). -/
def neighbours (c : Nat) : List Nat :=
  let at' : Int × Int → Option Nat := fun d =>
    let x := (coreX c : Int) + d.1
    let y := (coreY c : Int) + d.2
    if 0 ≤ x ∧ x < 24 ∧ 0 ≤ y ∧ y < 16 ∧ cohortOf (coreAt x.toNat y.toNat) = cohortOf c
    then some (coreAt x.toNat y.toNat) else none
  [(1, 0), (-1, 0), (0, -1), (0, 1), (2, 0), (-2, 0), (0, -2), (0, 2)].filterMap at'

/-- A core can take a foreign victim of this region (R189): its set has a free way, and it does not hold the region
itself (DESIGN CHOICE, log entry 67: R189 states neither condition). -/
def State.acceptsVictim (s : State) (d region : Nat) : Bool :=
  let r := s.coreRec d
  let set := region % 256
  let foreign := ((r.sectors.filter (fun x => x.foreign.isSome && x.sector / 16 % 256 == set)).map
    (fun x => x.sector / 16)).dedup
  !s.hasTx d && foreign.length < 2 && (regionsIn r set).length < 12 && !(regionsIn r set).contains region

/-- A region leaves an L1 for its home (R182). -/
def flushRegion (s : State) (c region : Nat) : State :=
  let s := mergeUpdates s c (fun d => d.addr / 512 == region)
  (writeBackIf s c (fun x => x.sector / 16 == region)).modCore c (fun r => { r with
    sectors := r.sectors.filter (fun x => x.sector / 16 != region) })

/-- A region leaves an L1 (R189): written back to its home, or its dirty bytes moved sideways where a neighbour takes
them and the free choice says so; an older victim of it is home first. The bytes that were clean stay behind. -/
def evictRegion (s : State) (c region : Nat) : State :=
  let r := s.coreRec c
  let xs := r.sectors.filter (fun x => x.sector / 16 == region)
  let dirty := xs.any (fun x => x.dirty != 0)
  let own := xs.all (fun x => x.foreign.isNone)
  let s := mergeUpdates s c (fun d => d.addr / 512 == region)
  let ch := s.takeBool
  let drop := fun (s : State) => s.modCore c (fun r => { r with
    sectors := r.sectors.filter (fun x => x.sector / 16 != region) })
  match (if dirty && own && ch.1 then (neighbours c).find? (fun d => s.acceptsVictim d region) else none) with
  | some d =>
    (drop (writeBackVictims ch.2 c (fun x => x.sector / 16 == region))).modCore d (fun r => { r with
      sectors := r.sectors ++ (xs.filter (fun x => x.dirty != 0)).map (fun x =>
        { x with valid := x.dirty, foreign := some c }) })
  | none => drop (writeBackIf (if dirty && own then ch.2 else s) c (fun x => x.sector / 16 == region))

/-- Room for a region in its set: a victim, chosen freely, leaves when the ways are full (R182). -/
def makeRoom (s : State) (c region : Nat) : State :=
  let rs := regionsIn (s.coreRec c) (region % 256)
  if rs.contains region || rs.length < s.ways c then s
  else
    let ch := s.takeNat rs.length
    evictRegion ch.2 c (rs.getD ch.1 0)

/-- The slice that holds foreign copies for a core (R188). -/
def foreignSlice (c pa : Nat) : Nat := cohortOf c * 32 + paOff pa / 512 % 32

/-- A copy of a remote sector kept in a foreign way. When there are FWAYS foreign lines in the set, one goes: here the
oldest, which R187 leaves open (DESIGN CHOICE, log entry 80). An own line of the slice goes where its 16 ways are full.
-/
def foreignInsert (s : State) (c k : Nat) (x : Sector) (po : Bool) : State :=
  if s.regs.fways = 0 then s
  else
    let co := cohortOf c
    let sl := foreignSlice c (k * 32)
    let set := k / 16 / 512 % 256
    let lines := foreignLines s sl set
    let s := if lines.contains (k / 16) || s.regs.fways ≤ lines.length then s else sliceRoom s sl set
    let keep := if lines.contains (k / 16) || lines.length < s.regs.fways then s.foreignWays
      else s.foreignWays.filter (fun f => !(f.1 == co && f.2.1 / 16 == lines.headD 0))
    { s with foreignWays := keep ++ [(co, k, x, po)] }

/-- What a miss fetches for a sector: from the foreign way that holds it, else from its home; poison where the home
member is lost (R188, R291). -/
def fetchSector (s : State) (c k g : Nat) : State × Sector × Bool :=
  if s.remote (k * 32) then
    match s.foreignWays.find? (fun f => f.1 == cohortOf c && f.2.1 == k) with
    | some f => (s, f.2.2.1, f.2.2.2)
    | none =>
      if !s.live.contains (paPkg (k * 32)) then (s, 0, true)
      else
        let x := sectorOfBytes (memBytes s (k * 32) 32)
        let po := s.poison.contains k
        (foreignInsert s c k x po, x, po)
  else
    let r := homeRead s (k * 32) 32 g
    (r.1, sectorOfBytes r.2.1, r.2.2)

/-- Bring a sector into a core's L1 unless all of it is there and valid (R182). The fetch obtains what the core itself
had written in it, so that the whole sector is then as its home holds it. -/
def l1Fill (s : State) (c k g : Nat) : State :=
  let s := mergeUpdates s c (fun d => d.addr / 512 == k / 16)
  match s.l1Sector c k with
  | some x =>
    if x.valid = BitVec.allOnes 32 then s
    else
      let f := fetchSector s c k g
      f.1.modCore c (fun r => { r with
        sectors := setSector { x with data := f.2.1, valid := BitVec.allOnes 32, dirty := 0, poison := f.2.2 } r.sectors })
  | none =>
    let s := makeRoom s c (k / 16)
    let f := fetchSector s c k g
    f.1.modCore c (fun r => { r with
      sectors := setSector ⟨k, f.2.1, BitVec.allOnes 32, 0, g, none, f.2.2⟩ r.sectors })

/-- Every sector that n bytes touch is valid in a core's L1: no slice answers a load of them. -/
def l1Hit (s : State) (c pa n : Nat) : Bool :=
  (sectorsOf pa n).all (fun k => (s.l1Sector c k).any (fun x => x.valid == BitVec.allOnes 32))

/-- A load through L1 (R182, R216): bytes and poison. An access may span sectors when it is typed. -/
def l1Load (s : State) (c pa n g : Nat) : State × List Byte × Bool :=
  let go := fun (acc : State × Bool) (k : Nat) =>
    let s := l1Fill acc.1 c k g
    (s, acc.2 || (s.l1Sector c k).any (·.poison))
  let r := (sectorsOf pa n).foldl go (s, false)
  let all := (sectorsOf pa n).flatMap (fun k =>
    match r.1.l1Sector c k with
    | some x => sectorBytes x.data
    | none => memBytes r.1 (k * 32) 32)
  (r.1, (all.drop (pa % 32)).take n, r.2)

/-- A store into L1 without a fetch (R182). -/
def l1StoreIn (s : State) (c pa g : Nat) (bs : List Byte) : State :=
  let k := pa / 32
  let s := mergeUpdates s c (fun d => d.addr / 512 == k / 16)
  let s := if (s.l1Sector c k).isNone then makeRoom s c (k / 16) else s
  let x := (s.l1Sector c k).getD ⟨k, 0, 0, 0, g, none, false⟩
  let m := maskRange (pa % 32) bs.length
  let x' := { x with
    data := sectorPut x.data (pa % 32) bs
    valid := x.valid ||| m
    dirty := x.dirty ||| m
    poison := x.poison && bs.length != 32 }
  s.modCore c (fun r => { r with sectors := setSector x' r.sectors })

/-- A store into L1, sector by sector. -/
def l1Store (s : State) (c pa g : Nat) (bs : List Byte) (who : Nat := 0) : State :=
  (sectorsOf pa bs.length).foldl (fun s k =>
    let p := sectorPart pa bs k
    l1StoreIn s c (32 * k + p.1) g p.2) (noteReplaced s who ((List.range bs.length).map (pa + ·)))

/-! ## Drains and invalidations (R225 to R227) -/

/-- Everything dirty in a core's L1, the victims that it moved sideways, and its deltas, for the sectors that pass a
test (R226). -/
def drainCore (s : State) (c : Nat) (p : Nat → Bool) : State :=
  mergeUpdates (writeBackIf s c (fun x => p x.sector)) c (fun d => p (d.addr / 32))

/-- Some sector of the grain that a sector of L1 belongs to passes a test (R183). -/
def L1Sector.grainAny (x : L1Sector) (p : Nat → Bool) : Bool :=
  let n := grainBytes x.grain / 32
  (List.range n).any (fun i => p (x.sector / n * n + i))

/-- The grains of a core that a test meets are invalidated: clean sectors are dropped, others keep only what the core
has written (R183, R225). Remote lines go too where `remote` says so. -/
def selfInvalidate (s : State) (c : Nat) (remote : Bool) (p : Nat → Bool) : State :=
  dropClean s c (fun x => x.grainAny p && (remote || !s.remote (x.sector * 32)))

/-- The foreign ways of a core's cohort that pass a test are dropped (R225). -/
def dropForeign (s : State) (c : Nat) (p : Nat → Bool) : State :=
  { s with foreignWays := s.foreignWays.filter (fun f => !(f.1 == cohortOf c && p f.2.1)) }

end Sys2Proof.Machine
end

