-- ==== Sys2Proof/Machine/Translate.lean ====
section
/-! DEFINITION. Address translation and the order of checks: the three-level walk (R198 to R203), cached translations
(R204, R205), permissions, holes and leases (R208, R300), and the form of a fault before it is taken. -/

namespace Sys2Proof.Machine

/-- A fault of one thread before trap entry (R269 to R272): cause, EXTRA, KIND (R509), the address of TADDR (none:
the faulting word's own byte address), the physical address, and the producer word. -/
structure Trap where
  cause : Nat
  extra : Nat
  kind : Nat
  addr : Option DWord
  phys : Nat
  producer : DWord
  deriving DecidableEq, Repr

/-- The cause codes (R272). -/
def cIllegalOpcode : Nat := 0x01
def cIllegalOperand : Nat := 0x02
def cIllegalPair : Nat := 0x03
def cRole : Nat := 0x04
def cRegRange : Nat := 0x05
def cLatchLost : Nat := 0x06
def cPriv : Nat := 0x07
def cLoopDepth : Nat := 0x08
def cLoopNest : Nat := 0x09
def cLoopCall : Nat := 0x0A
def cIllegalEncoding : Nat := 0x0B
def cNotPresent : Nat := 0x10
def cPerm : Nat := 0x11
def cMisaligned : Nat := 0x12
def cFormat : Nat := 0x13
def cPlace : Nat := 0x14
def cLeaseExpired : Nat := 0x15
def cLeaseRecalled : Nat := 0x16
def cLenderLost : Nat := 0x17
def cPeerLost : Nat := 0x18
def cReleaseFailed : Nat := 0x19
def cPoison : Nat := 0x1A
def cBound : Nat := 0x1B
def cRnsRange : Nat := 0x1C
def cRnsMismatch : Nat := 0x1D
def cSwTrap : Nat := 0x20
def cStallWatchdog : Nat := 0x23

/-- The resolvable causes (R272). -/
def resolvable (c : Nat) : Bool := c == 0x10 || c == 0x11 || c == 0x15 || c == 0x16 || c == 0x17

/-- A fault that arises from no access. -/
def Trap.plain (cause extra : Nat) : Trap := ⟨cause, extra, 0, none, 0, 0⟩

/-- A fault of an access at a byte address. -/
def Trap.at (cause extra kind : Nat) (addr : DWord) (phys : Nat := 0) : Trap :=
  ⟨cause, extra, kind, some addr, phys, 0⟩

/-! ## Page-table entries (R199) -/

abbrev Pte := BitVec 128
def Pte.v (e : Pte) : Bool := e.getLsbD 48
def Pte.r (e : Pte) : Bool := e.getLsbD 49
def Pte.w (e : Pte) : Bool := e.getLsbD 50
def Pte.x (e : Pte) : Bool := e.getLsbD 51
def Pte.u (e : Pte) : Bool := e.getLsbD 52
def Pte.g (e : Pte) : Bool := e.getLsbD 53
def Pte.a (e : Pte) : Bool := e.getLsbD 54
def Pte.d (e : Pte) : Bool := e.getLsbD 55
def Pte.fmt (e : Pte) : Nat := bits e.toNat 61 56
def Pte.geo (e : Pte) : Nat := bits e.toNat 65 62
def Pte.grain (e : Pte) : Nat := bits e.toNat 67 66
def Pte.bidx (e : Pte) : Nat := bits e.toNat 79 68
def Pte.lease (e : Pte) : Nat := bits e.toNat 95 80
def Pte.cpol (e : Pte) : Nat := bits e.toNat 97 96
def Pte.ppn (e : Pte) : Nat := bits e.toNat 47 0
def Pte.leaf (e : Pte) : Bool := e.r || e.w || e.x

/-- The bytes that a leaf of a level maps (R198). -/
def levelShift (level : Nat) : Nat := if level = 1 then 40 else if level = 2 then 28 else 16

/-- An entry is malformed at its level (R202). -/
def State.malformed (s : State) (e : Pte) (level : Nat) : Bool :=
  let tgt := e.ppn * 2 ^ 16
  bits e.toNat 127 98 != 0 ||
  (if e.leaf then
    e.grain == 3 || e.cpol == 3 || (level == 1 && e.ppn % 2 ^ 24 != 0) || (level == 2 && e.ppn % 2 ^ 12 != 0) ||
    (paTier tgt == 3 && e.cpol != 2) || (paTier tgt == 2 && e.lease == 0)
   else level == 3 || paTier tgt != 0 || s.remote tgt)

/-- How a walk ends: the leaf with its level and address, or a fault's cause and EXTRA. -/
inductive Walk where
  | leaf (e : Pte) (level addr : Nat)
  | fail (cause extra : Nat)
  deriving DecidableEq, Repr

/-- The walk from a table (R198): each level checks V, then the form of the entry (R208 steps 4 and 5). Of an entry in a
poisoned sector the walker takes the bytes (R203 names no outcome; DESIGN CHOICE, log entry 88). -/
def walkFrom (s : State) (va : Nat) : Nat → Nat → Nat → State × Walk
  | 0, _, _ => (s, .fail cPerm 2)
  | fuel + 1, level, table =>
    let addr := table + 16 * (va / 2 ^ levelShift level % 4096)
    let r := homeRead s addr 16
    let e : Pte := BitVec.ofNat 128 (leNat r.2.1)
    if !e.v then (r.1, .fail cNotPresent level)
    else if s.malformed e level then (r.1, .fail cPerm 2)
    else if e.leaf then (r.1, .leaf e level addr)
    else walkFrom r.1 va fuel (level + 1) (e.ppn * 2 ^ 16)

/-- A cached translation covers a virtual address of a context (R204). -/
def TlbEntry.covers (t : TlbEntry) (ctx va : Nat) : Bool :=
  t.page == va / 2 ^ levelShift t.level && (t.glob || t.ctx == ctx)

/-- Two leaves that differ in more than A and D. -/
def Pte.differs (a b : Pte) : Bool :=
  a &&& ~~~(BitVec.ofNat 128 (3 * 2 ^ 54)) != b &&& ~~~(BitVec.ofNat 128 (3 * 2 ^ 54))

/-- A translation enters the core's TLB of 256 entries and its cohort's cache of 8,192 (R204). Out of a full one goes
the translation that entered it first, which R204 leaves open (DESIGN CHOICE, log entry 80). The leaf is noted for the
range releases and acquires to come (log entry 83). -/
def cacheXlate (s : State) (c : Nat) (t : TlbEntry) : State :=
  let same := fun (u : TlbEntry) => u.page == t.page && u.level == t.level && u.ctx == t.ctx
  let s := s.modCore c (fun r => { r with tlb := (t :: r.tlb.filter (fun u => !same u)).take 256 })
  let co := cohortOf c
  let mine := (s.xlate.filter (fun u => u.1 == co && !same u.2)).take 8191
  let noted := s.leaves.any (fun u => same u && u.glob == t.glob && !Pte.differs u.pte t.pte)
  { s with
    xlate := (co, t) :: mine ++ s.xlate.filter (fun u => u.1 != co)
    leaves := if noted then s.leaves else t :: s.leaves }

/-- The translation that a core or its cohort has cached for an address (R204). -/
def cachedXlate (s : State) (ag : Agent) (va : Nat) : Option TlbEntry :=
  match (s.coreRec ag.core).tlb.find? (fun t => t.covers ag.ctx va) with
  | some t => some t
  | none => (s.xlate.find? (fun (t : Nat × TlbEntry) => t.1 == cohortOf ag.core && t.2.covers ag.ctx va)).map
      (fun (t : Nat × TlbEntry) => t.2)

/-- Translate an address of a context (R203 to R205): through the cached translation while it agrees with the tables.
Where it no longer does, the access may use the old or the new one: a free choice. -/
def translate (s : State) (ag : Agent) (va : Nat) : State × Walk :=
  let w := walkFrom s va 3 1 ag.table
  let fresh := fun (u : State) => match w.2 with
    | .leaf e level addr => (cacheXlate u ag.core ⟨ag.ctx, e.g, level, va / 2 ^ levelShift level, e, addr⟩, w.2)
    | .fail _ _ => (u, w.2)
  match cachedXlate s ag va with
  | none => fresh w.1
  | some t =>
    let stale : Bool := match w.2 with
      | .leaf e level _ => Pte.differs e t.pte || level != t.level
      | .fail _ _ => true
    if stale then
      let ch := w.1.takeBool
      if ch.1 then (ch.2, .leaf t.pte t.level t.leaf) else fresh ch.2
    else (s, .leaf t.pte t.level t.leaf)

/-- A and, for a store, D set in the leaf by an atomic OR at its home, unless the translation in use has them set; the
core's and its cohort's cached translations then have them too (R203). -/
def setAD (s : State) (c leafAddr : Nat) (e : Pte) (store : Bool) : State :=
  let orBits := 2 ^ 54 + (if store then 2 ^ 55 else 0)
  if e.a && (!store || e.d) then s
  else
    let r := homeRead s leafAddr 8
    let s := homeWrite r.1 none leafAddr (leBytes (leNat r.2.1 ||| orBits) 8)
    let mark := fun (t : TlbEntry) => if t.leaf == leafAddr then { t with pte := t.pte ||| BitVec.ofNat 128 orBits } else t
    let s := s.modCore c (fun k => { k with tlb := k.tlb.map mark })
    { s with xlate := s.xlate.map (fun u => if u.1 == cohortOf c then (u.1, mark u.2) else u) }

/-! ## Leases (R300) -/

/-- The lease check of a tier-2 access (R300): the cause, or none. -/
def State.leaseFault (s : State) (pa : Nat) (lease : Nat) : Option Nat :=
  if paTier pa ≠ 2 then none
  else
    let e := s.borrowEntry pa
    match beState e with
    | 2 => if beLease e = lease then none else some cLeaseExpired
    | 3 => some cLeaseRecalled
    | 5 => some cLenderLost
    | _ => some cLeaseExpired

/-- What an access asks for (R201). -/
structure Need where
  r : Bool
  w : Bool
  x : Bool
  deriving DecidableEq, Repr

def needR : Need := ⟨true, false, false⟩
def needW : Need := ⟨false, true, false⟩
def needRW : Need := ⟨true, true, false⟩
def needX : Need := ⟨false, false, true⟩

/-- A translated access: its physical address and the leaf that governs it. -/
structure Xlated where
  pa : Nat
  pte : Pte
  deriving DecidableEq, Repr

/-- The permissions of R201, the routine's U, and a borrowed extent's PR and PW where its entry is the leaf's (R300); a
fetch is a read. -/
def State.permitted (s : State) (e : Pte) (pa : Nat) (need : Need) : Bool :=
  e.u && (!need.r || e.r) && (!need.w || e.w) && (!need.x || e.x) &&
  (paTier pa != 2 ||
    (let b := s.borrowEntry pa
     beState b != 2 || beLease b != e.lease || ((!(need.r || need.x) || bePr b) && (!need.w || bePw b))))

/-- Steps 3 to 8 of R208 at a virtual address, with A and D set when the access goes on. `spans` gives the runs of
bytes, as address and length, that the access touches, given the leaf and the physical address (R208 step 7). `noLease`
is true where the lease check is not reached (a transaction, R243). A and D are set also for an access that passes
these steps and is then not performed, or that a transaction aborts as NONLOCAL, of which R203 says nothing (DESIGN
CHOICE, log entry 91). -/
def checkSpans (s : State) (ag : Agent) (va : DWord) (spans : Pte → Nat → List (Nat × Nat)) (need : Need) (kind : Nat)
    (noLease : Bool := false) : State × Except Trap Xlated :=
  if 2 ^ 52 ≤ va.toNat then (s, .error (Trap.at cPerm 1 kind va))
  else
    let w := translate s ag va.toNat
    match w.2 with
    | .fail c x => (w.1, .error (Trap.at c x kind va))
    | .leaf e level addr =>
      let sh := levelShift level
      let pa := e.ppn * 2 ^ 16 / 2 ^ sh * 2 ^ sh + va.toNat % 2 ^ sh
      if !w.1.permitted e pa need then (w.1, .error (Trap.at cPerm 3 kind va pa))
      else if (spans e pa).any (fun r => w.1.hole r.1 r.2) then (w.1, .error (Trap.at cPerm 4 kind va pa))
      else match (if noLease then none else w.1.leaseFault pa e.lease) with
        | some c => (w.1, .error (Trap.at c e.lease kind va pa))
        | none => (setAD w.1 ag.core addr e need.w, .ok ⟨pa, e⟩)

/-- The same for n bytes at the address. -/
def checkAccess (s : State) (ag : Agent) (va : DWord) (n : Nat) (need : Need) (kind : Nat) (noLease : Bool := false) :
    State × Except Trap Xlated :=
  checkSpans s ag va (fun _ pa => [(pa, n)]) need kind noLease

/-- The check of an untyped access, alignment first (R208 steps 2 to 8). -/
def checkAligned (s : State) (ag : Agent) (va : DWord) (n : Nat) (need : Need) (kind : Nat) (noLease : Bool := false) :
    State × Except Trap Xlated :=
  if va.toNat % n ≠ 0 then (s, .error (Trap.at cMisaligned n kind va))
  else checkAccess s ag va n need kind noLease

end Sys2Proof.Machine
end

