-- ==== Sys2Proof/Machine/Operands.lean ====
section
/-! DEFINITION. Operand delivery: rotation (R94), register groups (R69), bypass latches (R76 to R79), uniform registers
(R67), predicates (R68), guards (R333), pending results and their commit (R73 to R75), and the X-buffer with its barrier
words (R180, R231, R232). -/

namespace Sys2Proof.Machine

/-! ## Loop levels and rotation -/

/-- A level is active when it is live and not suspended (R90). -/
def LoopLevel.windowHolds (l : LoopLevel) (n : Nat) : Bool :=
  !l.susp && l.wsize != 0 && 8 * l.wbase.toNat ≤ n && n < 8 * l.wbase.toNat + 8 * l.wsize.toNat

/-- The physical register of a vector name (R94). A window of an edited image may reach past L or past v383: the name
then means a register of that number in the thread's own map (DESIGN CHOICE, log entry 86). -/
def rotateName (loops : List LoopLevel) (n : Nat) : Nat :=
  match loops.find? (fun l => l.windowHolds n) with
  | some l => 8 * l.wbase.toNat + (n - 8 * l.wbase.toNat + l.rrb.toNat) % (8 * l.wsize.toNat)
  | none => n

def Thread.readV (t : Thread) (n : Nat) : Word := SMap.get t.regs (rotateName t.loops n)

/-! ## Uniform registers -/

/-- The later of two writes in flight (R67): the later clock, then the higher quarter, then the lower slot; of two
writes by one thread in one clock the later in the list. -/
def uniLater (cur w : UniWrite) : Bool :=
  w.clock > cur.clock || (w.clock == cur.clock && (w.quarter > cur.quarter ||
    (w.quarter == cur.quarter && w.slot ≤ cur.slot)))

def uniBest (ws : List UniWrite) : Option UniWrite :=
  ws.foldl (fun cur w => match cur with
    | none => some w
    | some c => if uniLater c w then some w else some c) none

/-- What an instruction of slot `q` that issues at `now` sees of a uniform register (R67). A thread sees its own write
at once; one whose write lost to a lower slot of its party does so too until the fourth clock, a point that R67 leaves
open (DESIGN CHOICE, log entry 48). -/
def Block.uniRead (b : Block) (now q n : Nat) : Word :=
  match uniBest (b.uniPend.filter (fun w => w.reg == n && (w.slot == q || w.clock + 4 ≤ now))) with
  | some w => w.value
  | none => SMap.get b.uni n

/-- A block register written by SWR or RNSCFG, under the same rule (R174, R497). A stream word (no slot) sees the
latest write: a barrier that orders the two requires it, and without one it may (log entry 12). -/
def regLater (cur w : RegWrite) : Bool :=
  w.clock > cur.clock || (w.clock == cur.clock && (w.quarter > cur.quarter ||
    (w.quarter == cur.quarter && w.slot ≤ cur.slot)))

def regSeen (ws : List RegWrite) (now : Nat) (q : Option Nat) (base : DWord) : DWord :=
  match (ws.filter (fun w => q.isNone || q == some w.slot || w.clock + 4 ≤ now)).foldl (fun cur w => match cur with
    | none => some w
    | some c => if regLater c w then some w else some c) (none : Option RegWrite) with
  | some w => w.value
  | none => base

/-- TVEC as a thread of the block sees it (R497). -/
def Block.tvecAt (b : Block) (now q : Nat) : DWord := regSeen b.tvecPend now (some q) b.tvec

/-- The RNSCFG word as an instruction of a thread sees it, or a stream word (R174). -/
def Block.rnsAt (b : Block) (now : Nat) (q : Option Nat) : Word :=
  (regSeen b.rnsPend now q (b.rnsCfg.setWidth 64)).setWidth 32

/-! ## Sources -/

/-- What a read of latch kn returns, if it is not lost (R77, R79). -/
def Thread.latch (t : Thread) (n : Nat) : Option Word :=
  match t.latches[n]? with
  | some l => if l.valid then some l.value else l.src.map (fun p => SMap.get t.regs p)
  | none => none

/-- One 32-bit source (R65); `i` counts the registers of a group. -/
def readPart (s : State) (c q : Nat) (o : Opnd) (i : Nat) : Word :=
  match o with
  | .v n => (s.thread c q).readV (n.val + i)
  | .s n => (s.block c).uniRead s.clock q (n.val + i)
  | .k n => ((s.thread c q).latch n.val).getD 0
  | .lane => BitVec.ofNat 32 (laneOf q)
  | .slot => BitVec.ofNat 32 q
  | .zero | .res _ => 0

/-- A group of `n` registers as one number, the base lowest (R69). -/
def readGroup (s : State) (c q : Nat) (o : Opnd) : Nat → Nat → Nat
  | _, 0 => 0
  | i, n + 1 => (readPart s c q o i).toNat + 2 ^ 32 * readGroup s c q o (i + 1) n

/-- A source of one, two or four registers. -/
def readSrc (s : State) (c q : Nat) (o : Opnd) (n : Nat) : Nat := readGroup s c q o 0 n

def readWord (s : State) (c q : Nat) (o : Opnd) : Word := readPart s c q o 0

def readPair (s : State) (c q : Nat) (o : Opnd) : DWord := BitVec.ofNat 64 (readSrc s c q o 2)

/-- The first latch operand of a word that is lost to the thread: its number n (R79, R272). -/
def lostLatch (t : Thread) (us : List Use) : Option Nat :=
  us.findSome? (fun u => match u.o with
    | .k n => if (t.latch n.val).isNone then some (n.val + 1) else none
    | _ => none)

/-- A word reads a register that an uncorrectable error has struck (R286), by its name or through an invalid latch that
falls back to it (R79). -/
def readsStruck (t : Thread) (us : List Use) : Bool :=
  !t.regPoison.isEmpty && us.any (fun u => u.kind == .src && match u.o with
    | .v n => (List.range u.size).any (fun i => t.regPoison.contains (rotateName t.loops (n.val + i)))
    | .k n => (t.latches[n.val]?).any (fun l => !l.valid && l.src.any (fun p => t.regPoison.contains p))
    | _ => false)

/-! ## Destinations -/

/-- The registers of a destination, fixed at issue (R70, R95). -/
def dstRegs (t : Thread) (o : Opnd) (n : Nat) : List RegDst :=
  match o with
  | .v k => (List.range n).map (fun i => .v (rotateName t.loops (k.val + i)))
  | .s k => (List.range n).map (fun i => .s (k.val + i))
  | _ => []

/-- One register written: a vector register at once, a uniform one under R67. -/
def writeReg (s : State) (c q : Nat) (d : RegDst) (v : Word) : State :=
  match d with
  | .v n => s.modThread c q (fun t => { t with
      regs := SMap.set t.regs n v, regPoison := t.regPoison.filter (· != n) })
  | .s n => s.modBlock c (fun b => { b with uniPend := b.uniPend ++ [⟨n, v, s.clock, quarterOf q, q⟩] })

def writeRegs (s : State) (c q : Nat) : List (RegDst × Word) → State
  | [] => s
  | (d, v) :: r => writeRegs (writeReg s c q d v) c q r

/-- Register i of a group takes bits [32i + 31 : 32i] of a value (R69). -/
def splitValue (ds : List RegDst) (v : Nat) : List (RegDst × Word) :=
  match ds with
  | [] => []
  | d :: r => (d, BitVec.ofNat 32 v) :: splitValue r (v / 2 ^ 32)

/-! ## Predicates, guards and flags -/

/-- p0 reads true (R68). -/
def Thread.pred (t : Thread) (n : Nat) : Bool := n == 0 || t.preds.getLsbD n

/-- A write to p0 is discarded (R68). -/
def Thread.setPred (t : Thread) (n : Nat) (b : Bool) : Thread :=
  if n = 0 then t
  else { t with preds := if b then t.preds ||| (1#16 <<< n) else t.preds &&& ~~~(1#16 <<< n) }

def writePred (s : State) (c q n : Nat) (b : Bool) : State := s.modThread c q (fun t => t.setPred n b)

/-- A guard read by a thread (R333). -/
def Guard.holds (g : Guard) (t : Thread) : Bool := t.pred g.pred.toNat != g.neg

/-- Flags are sticky (R120). -/
def Thread.raise (t : Thread) (f : Flags) : Thread := { t with tst := t.tst ||| f.setWidth 32 }

def raiseFlags (s : State) (c q : Nat) (f : Flags) : State := s.modThread c q (fun t => t.raise f)

/-- TST.INTRAP (R82). -/
def Thread.inTrap (t : Thread) : Bool := t.tst.getLsbD 8

/-- A result enters k1 (R76). -/
def Thread.pushLatch (t : Thread) (l : Latch) : Thread := { t with latches := (l :: t.latches).take 4 }

/-- The latches become invalid; their producers are still known (R79). -/
def Thread.invalidateLatches (t : Thread) : Thread :=
  { t with latches := t.latches.map (fun l => { l with valid := false }) }

/-! ## Tags (R72 to R75) -/

/-- The tags that a word commits: its WAIT mask with its own tag (R72). -/
def Ctl.tags (k : Ctl) : List Nat :=
  (List.range 7).filter (fun n => k.wait.getLsbD n || k.alloc.toNat == n)

/-- A result may be committed: it has arrived. -/
def tagsArrived (t : Thread) (tags : List Nat) : Bool := t.pend.all (fun p => !tags.contains p.tag || p.arrived)

/-- A result is written to its destination, with its predicate and flags; a poisoned or lost one writes nothing. -/
def commitOne (s : State) (c q : Nat) (p : Pending) : State :=
  if p.poison.isSome || p.lost.isSome then s
  else
    let s := writeRegs s c q p.dst
    let s := match p.pred with
      | some x => writePred s c q x.1 x.2
      | none => s
    raiseFlags s c q p.flags

/-- Several tags commit oldest first (R73); the answer is the first result that was poisoned or lost (R287). -/
def commitTags (s : State) (c q : Nat) (tags : List Nat) : State × Option Pending :=
  let ps := (s.thread c q).pend.filter (fun p => tags.contains p.tag)
  let s := ps.foldl (fun s p => commitOne s c q p) s
  (s.modThread c q (fun t => { t with pend := t.pend.filter (fun p => !tags.contains p.tag) }),
   ps.find? (fun p => p.poison.isSome || p.lost.isSome))

def commitAll (s : State) (c q : Nat) : State × Option Pending := commitTags s c q (List.range 7)

/-- A variable-latency result is allocated under its tag; it arrives by RESULT_ARRIVAL (R73). -/
def allocTag (s : State) (c q : Nat) (p : Pending) : State :=
  s.modThread c q (fun t => { t with pend := t.pend ++ [p] })

/-- An empty result under a tag (R75). -/
def emptyResult (tag : Nat) (pc : DWord) (o : Opnd) (size : Nat) : Pending :=
  ⟨tag, [], none, 0, false, none, none, pc, 0, 0, o.code, size - 1, 0, false⟩

/-! ## The X-buffer -/

def xBytes : Nat := 0x200000

/-- Bytes of a core's X-buffer, and whether a sector of them is poisoned. -/
def xRead (s : State) (c a n : Nat) : List Byte := readBytes (s.block c).xbuf a n

def xPoisoned (s : State) (c a n : Nat) : Bool := (sectorsOf a n).any (fun k => (s.block c).xpoison.contains k)

/-- A byte as the X-buffer takes it: bit 15 of a barrier word is reserved (R8, R231). -/
def xByte (a : Nat) (b : Byte) : Byte := if 0x1FFF80 ≤ a ∧ a % 4 = 1 then b &&& 0x7F#8 else b

/-- Bytes written to a core's X-buffer; whole sectors lose their mark (R285). -/
def xWrite (s : State) (c a : Nat) (bs : List Byte) : State :=
  let whole := (sectorsOf a bs.length).filter (fun k => a ≤ k * 32 && k * 32 + 32 ≤ a + bs.length)
  s.modBlock c (fun b => { b with
    xbuf := writeBytes b.xbuf a (bs.mapIdx (fun i x => xByte (a + i) x))
    xpoison := b.xpoison.filter (fun k => !whole.contains k) })

/-- The core that a place offset names, if it is in range (R56). -/
def placeCore (s : State) (c : Nat) (dx dy : Int) : Option Nat :=
  let b := s.block c
  let x := (b.bx : Int) + dx
  let y := (b.bY : Int) + dy
  if 0 ≤ x ∧ x < b.w ∧ 0 ≤ y ∧ y < b.h then
    some (coreAt (coreX c - b.bx + x.toNat) (coreY c - b.bY + y.toNat))
  else none

/-- The core and address that an X-buffer address word names (R369, R420). -/
def placeWord (s : State) (c : Nat) (plc : Bool) (w : Word) (disp : Word) : Option (Nat × Nat) :=
  if plc then
    let dx := (w.extractLsb' 26 6).toInt
    let dy := (w.extractLsb' 21 5).toInt
    (placeCore s c dx dy).map (fun t => (t, ((w &&& 0x1FFFFF#32) + disp).toNat))
  else some (c, (w + disp).toNat)

/-! ## Barriers (R231, R232) -/

def barrierAddr (n : Nat) : Nat := 0x1FFF80 + 4 * n

def barrierWord (s : State) (c n : Nat) : Word := BitVec.ofNat 32 (leNat (xRead s c (barrierAddr n) 4))

def barrierPhase (s : State) (c n : Nat) : Bool := (barrierWord s c n).getLsbD 31

/-- The word after one arrival, and whether it completes the phase (R232). -/
def arriveWord (w : Word) : Word × Bool :=
  let arrived := (w &&& 0x7FFF#32).toNat + 1
  let expect := Nat.max (bits w.toNat 30 16) 1
  if expect ≤ arrived then ((w ^^^ 0x80000000#32) &&& 0xFFFF8000#32, true)
  else ((w &&& 0xFFFF8000#32) ||| BitVec.ofNat 32 arrived, false)

/-- One arrival at a barrier of a block (R232). A completion by another participant makes a stopped sequencer owe an
arrival (R233). -/
def arrive (s : State) (c n : Nat) (bySeq : Bool) : State :=
  let r := arriveWord (barrierWord s c n)
  let s := xWrite s c (barrierAddr n) (leBytes r.1.toNat 4)
  if r.2 && !bySeq then
    s.modBlock c (fun b => if b.seq.state == .stopped && b.seq.parts.getLsbD n then
      { b with seq := { b.seq with owed := b.seq.owed ++ [(n, s.clock)] } } else b)
  else s

end Sys2Proof.Machine
end

