-- ==== Sys2Proof/Machine/Tier3.lean ====
section
/-! DEFINITION. Tier 3: the control registers and tables by their offsets (R197, R206, R22, R195, R254, R275, R294, R321,
R375). The package kernel's store becomes the event that the register names. Then the accesses of a context's agents that
go past L1: to tier 3, to another package (R314), or at the home. -/

namespace Sys2Proof.Machine

/-- An entry of the slot table as its 16 bytes read (R260). -/
def slotWord (e : SlotEntry) : Nat := e.inst % 2 ^ 32 + e.state % 8 * 2 ^ 32 + e.rect % 2 ^ 16 * 2 ^ 48 + e.wpAddr % 2 ^ 64 * 2 ^ 64

/-- MGSEM as it reads (R322). -/
def mgsemWord (r : Regs) : Nat := r.mgOwner % 4 * 2 ^ 30 + r.mgHold % 2 ^ 16

/-- The value of the register or entry that starts at an offset; what can only be written reads as zero. -/
def t3Value (s : State) (off : Nat) : Nat :=
  let r := s.regs
  match off with
  | 0x1000000 => r.throt.toNat
  | 0x1000008 => b2n r.podSet * 2 ^ 31 + r.pkgNum.toNat
  | 0x1100090 => r.dispCfg.toNat
  | 0x11000A0 => r.fqBase.toNat
  | 0x11000A8 => r.fqTail.toNat
  | 0x11000AC => r.fqHead.toNat
  | 0x1300000 => r.lendCfg.toNat
  | 0x1300010 => r.lendStat.toNat
  | 0x1300018 => r.fabId.toNat
  | 0x1300020 => r.linkArb.toNat
  | 0x1500000 => mgsemWord r
  | 0x1500004 => r.alarmCfg.toNat
  | 0x1500008 => r.alarmStat.toNat
  | 0x150000C => r.pwrCap.toNat
  | 0x1500010 => r.clkMHz * 2 ^ 16 + r.clkLimits.toNat
  | 0x1600000 => r.bndBase.toNat
  | _ =>
    if 0x1200000 ≤ off ∧ off < 0x1200000 + 16 * 384 then slotWord (s.slotEntry ((off - 0x1200000) / 16))
    else if 0x1400000 ≤ off ∧ off < 0x1420000 then (SMap.get s.cadastre ((off - 0x1400000) / 16)).toNat
    else if 0x1420000 ≤ off ∧ off < 0x1430000 then (SMap.get s.borrowed ((off - 0x1420000) / 16)).toNat
    else if 0x1430000 ≤ off ∧ off < 0x1432000 then (SMap.get s.windows ((off - 0x1430000) / 32)).toNat
    else if 0x1440000 ≤ off ∧ off < 0x1460000 then (SMap.get s.outkey ((off - 0x1440000) / 2)).toNat
    else if 0x1500020 ≤ off ∧ off < 0x1500040 then (SMap.get s.eol ((off - 0x1500020) / 4)).toNat
    else if 0x1500100 ≤ off ∧ off < 0x1500300 then (SMap.get s.mreg ((off - 0x1500100) / 32)).toNat
    else if 0x1602000 ≤ off ∧ off < 0x1604000 then (SMap.get s.bndown ((off - 0x1602000) / 2)).toNat
    else 0

/-- What only the package kernel and the security core read: the OUTKEY table (R294), BNDBASE and BNDOWN (R375). -/
def t3Secret (off : Nat) : Bool :=
  (0x1440000 ≤ off && off < 0x1460000) || (0x1600000 ≤ off && off < 0x1604000)

/-- Bytes of a listed register or entry as the package kernel or another agent reads them: to another agent what is not
secret reads as it stands, and the rest as 0 (DEDUCED, log entry 51). -/
def t3Read (s : State) (kernel : Bool) (off n : Nat) : List Byte :=
  match t3Cell off with
  | some r => leBytes (if t3Secret off && !kernel then 0 else t3Value s r.1 / 2 ^ (8 * (off - r.1))) n
  | none => List.replicate n 0

/-- PODID, which no routine reaches (R22). -/
def podidByte (off : Nat) : Bool := 0x1000008 ≤ off && off < 0x100000C

/-- The write-only registers (R7). -/
def t3WriteOnly (off : Nat) : Bool :=
  off == 0x1000040 || (0x1100000 ≤ off && off < 0x1100090) || off == 0x11000B0 || off == 0x1300008 || off == 0x1500014

/-- Fields that a write of zero leaves alone: write-only and write-one-to-clear registers (R8). -/
def t3ZeroBase (off : Nat) : Bool := t3WriteOnly off || off == 0x1500008

/-- The event of a whole value written by the package kernel. -/
def t3Event (s : State) (off size v : Nat) : Option Instr :=
  let d : DWord := BitVec.ofNat 64 v
  let w : Word := BitVec.ofNat 32 v
  match off with
  | 0x1000008 => some (.podid w)
  | 0x1000040 => some (.invdb d)
  | 0x1100080 => some (if bit ((homeRead s (d.toNat + 0x1A) 1).2.1.headD 0).toNat 0 then .bindResume d else .bind d)
  | 0x1100088 => some (.preemptdb d)
  | 0x11000B0 => match bits v 31 30 with
    | 0 => some (.fresumeRetry d)
    | 1 => some (.fresumeKill d)
    | _ => none
  | 0x1300008 => some (match bits v 63 60 with
    | 2 => .lendcmdRecall d
    | 3 => .lendcmdFree d
    | _ => .lendcmdOffer d)
  | 0x1500014 => some (.resetcmd .kernel w)
  | _ =>
    if h : 0x1100000 ≤ off ∧ off < 0x1100080 then some (.rqdb ⟨(off - 0x1100000) / 8, by omega⟩ d)
    else if h : 0x1420000 ≤ off ∧ off < 0x1430000 then
      some (.borrowedExtentWrite ⟨(off - 0x1420000) / 16, by omega⟩ (BitVec.ofNat 128 v))
    else some (.registerWrite .kernel off size (BitVec.ofNat 256 v))

/-- Bytes that are stored in a register or entry, as the whole value that then reaches it: the other bytes stay as they
are. -/
def t3Merge (s : State) (off : Nat) (bs : List Byte) : Option (Nat × Nat × Nat) :=
  match t3Cell off with
  | some r =>
    if r.1 + r.2 < off + bs.length then none
    else
      let cur := if t3ZeroBase r.1 then List.replicate r.2 0 else leBytes (t3Value s r.1) r.2
      some (r.1, r.2, leNat (cur.take (off - r.1) ++ bs ++ cur.drop (off - r.1 + bs.length)))
  | none => none

/-- A store to a listed register or entry. Only the package kernel's have an effect: no routine maps these registers,
and one that reaches them all the same changes nothing (R22, R294; log entry 51). A store of a part waits as those
bytes alone, which then reach the value that they find. -/
def t3Write (s : State) (kernel : Bool) (off : Nat) (bs : List Byte) : State :=
  match (if kernel then t3Cell off else none) with
  | some r =>
    if r.1 + r.2 < off + bs.length then s
    else if bs.length = r.2 then
      match t3Event s r.1 r.2 (leNat bs) with
      | some i => s.post i
      | none => s
    else s.post (.registerWrite .kernel off bs.length (BitVec.ofNat 256 (leNat bs)))
  | none => s

/-! ## The accesses of an agent past L1 -/

/-- The package kernel's context (R301). -/
def kernelCtx (ctx : Nat) : Bool := ctx == 0

/-- Tier 3 as an agent of a context reads and writes it: PODID it does not reach, and it finds 0 there (R22, log entry
51). -/
def agentT3Read (s : State) (ctx off n : Nat) : List Byte :=
  if podidByte off then List.replicate n 0 else t3Read s (kernelCtx ctx) off n

def agentT3Write (s : State) (ctx off : Nat) (bs : List Byte) : State :=
  if podidByte off then s else t3Write s (kernelCtx ctx) off bs

/-- A request of a context to another live package, which carries this package's number and the context's OUTKEY; the
target's inbound windows, which this package does not hold, may refuse it: a free choice (R314, log entry 9). `kind` is
0 read, 1 write, 2 atomic. -/
def remoteRefused (s : State) (ctx pa kind : Nat) : Bool × State :=
  if s.remote pa && s.live.contains (paPkg pa) then
    (s.notice (.request (paPkg pa) s.pkg (SMap.get s.outkey ctx) pa kind)).takeBool
  else (false, s)

/-- Bytes that an agent of a context reads past L1 at a checked address (R200, R286, R291, R314): a lost member's and a
refused request's are poisoned. -/
def agentRead (s : State) (ctx : Nat) (x : Xlated) (n : Nat) : State × List Byte × Bool :=
  if paTier x.pa = 3 then (s, agentT3Read s ctx (paOff x.pa) n, false)
  else if s.remote x.pa && !s.live.contains (paPkg x.pa) then (s, List.replicate n 0, true)
  else
    let f := remoteRefused s ctx x.pa 0
    if f.1 then (f.2, List.replicate n 0, true)
    else if x.pte.cpol = 2 then uncachedRead f.2 x.pa n x.pte.grain
    else homeRead f.2 x.pa n x.pte.grain

/-- Bytes that an agent of a context writes past L1, on core `c` if it has one, with the kind of its request; and the
package that is lost or refuses them, if any (R291, R314). -/
def agentWrite (s : State) (ctx : Nat) (c : Option Nat) (x : Xlated) (bs : List Byte) (kind : Nat)
    (who : Nat := 0) : State × Option Nat :=
  if paTier x.pa = 3 then (agentT3Write s ctx (paOff x.pa) bs, none)
  else if s.remote x.pa && !s.live.contains (paPkg x.pa) then (s, some (paPkg x.pa))
  else
    let f := remoteRefused s ctx x.pa kind
    if f.1 then (f.2, some (paPkg x.pa))
    else (if x.pte.cpol = 2 then uncachedWrite f.2 c x.pa bs x.pte.grain who
      else homeWrite f.2 c x.pa bs x.pte.grain who, none)

end Sys2Proof.Machine
end

