-- ==== Sys2Proof/Machine/Ops.lean ====
section
/-! DEFINITION. The operations that the meanings share: the save area (R83), the fault queue (R275), sequencer stops
(R152), killing a block (R279), TAKING A FAULT (R269, `takeFault`) and the return from one (R489, `returnFromTrap`),
transaction aborts (R244), loops and end words (R93, R97), instruction fetch (R329, R330), and the protocol by which a
party's word issues (R273). -/

namespace Sys2Proof.Machine

/-- The word at `pc` has issued: its fetcher's pass through the line is beyond it (R330). -/
def LineFetch.past (pc : DWord) (l : LineFetch) : LineFetch := { l with next := pc + 1 }

/-! ## The save area -/

/-- The physical address of a byte of a block's image (R83, R262). -/
def imgAddr (b : Block) (off : Nat) : Option Nat := (b.img[off / 65536]?).map (fun p => p + off % 65536)

/-- `n` bytes of a value written into a block's image. -/
def saveWrite (s : State) (c off v n : Nat) : State :=
  match imgAddr (s.block c) off with
  | some pa => physWrite s pa v n
  | none => s

def threadRecord (q : Nat) : Nat := 0x50000 + 0xA00 * q

/-! ## Completion words (R236, R283) -/

/-! The completion codes (R283). -/
def codeOk : Nat := 0
def codeSrcPoison : Nat := 1
def codeDstFault : Nat := 2
def codeLease : Nat := 3
def codePeerLost : Nat := 4
def codeFormat : Nat := 5
def codeTierTimeout : Nat := 6
def codeAborted : Nat := 7

def completionValue (pos cause code : Nat) : Nat := 2 ^ 63 + pos % 2 ^ 39 * 2 ^ 24 + cause % 256 * 2 ^ 16 + code % 8

/-- An engine's atomic write of a completion word in a context, a release side at system scope: borrowed lines that are
dirty at the slices go back to their lenders first (R225, R236). A word that cannot be written is not; one that another
package refuses or loses sets the latch of the thread that named it, if there is one (R292, R314). -/
def completionWrite (s : State) (ag : Agent) (va : DWord) (pos cause code : Nat) (who : Option Nat := none) : State :=
  let r := checkAligned (borrowWriteBack s (fun _ => true)) ag va 8 needW 2
  match r.2 with
  | .ok x =>
    let w := agentWrite r.1 ag.ctx none x (leBytes (completionValue pos cause code) 8) 2
    match w.2, who with
    | some p, some q => setLatch w.1 ag.core q p
    | _, _ => w.1
  | .error _ => r.1

/-! ## Error records (R265) and the fault queue (R275) -/

def State.route? (s : State) (id : Nat) : Option Route := s.routes.find? (fun r => r.id == id)

def State.modRoute (s : State) (id : Nat) (f : Route → Route) : State :=
  { s with routes := s.routes.map (fun r => if r.id == id then f r else r) }

/-- One record of a route's error queue, its reserved word zero (R8); beyond its capacity it is dropped. -/
def errorRecord (s : State) (route code wp inst detail : Nat) (pc : Nat) (corepos : Nat) : State :=
  match s.route? route with
  | none => s
  | some r =>
    if 2 ^ r.errCap ≤ r.errTail then s.modRoute route (fun r => { r with dropped := true })
    else
      let a := r.errBase.toNat + 32 * r.errTail
      let s := physWrite s a code 4
      let s := physWrite s (a + 4) wp 4
      let s := physWrite s (a + 8) inst 4
      let s := physWrite s (a + 12) detail 4
      let s := physWrite s (a + 16) pc 8
      let s := physWrite s (a + 24) (corepos % 2 ^ 32) 8
      let s := physWrite s (r.addr + 0x24) (r.errTail + 1) 4
      s.modRoute route (fun r => { r with errTail := r.errTail + 1 })

/-- A record that no core causes: what it holds as COREPOS the manual leaves open, a free value. -/
def errorNoCore (s : State) (route code wp inst detail pc : Nat) : State :=
  errorRecord { s with freeCtr := s.freeCtr + 1 } route code wp inst detail pc (Config.freeWord s.freeCtr).toNat

def errorOfBlock (s : State) (c code detail pc : Nat) : State :=
  let b := s.block c
  errorRecord s b.route code b.wp b.inst detail pc (corePos c).toNat

/-- A record enters the fault queue, or waits while the ring is full (R275). -/
def fqPush (s : State) (f : FqRecord) : State :=
  if (s.regs.fqTail - s.regs.fqHead).toNat < 4096 then
    let s := physWrite s (s.regs.fqBase.toNat + 32 * (s.regs.fqTail.toNat % 4096)) f.data.toNat 32
    ({ s with regs := { s.regs with fqTail := s.regs.fqTail + 1 } } : State).notice .hostInterrupt
  else { s with fqWait := s.fqWait ++ [f] }

/-- The record of one suspended thread or sequencer: slot code, cause, TADDR and the address of its own record. -/
def fqRecord (s : State) (c slotCode cause : Nat) (taddr recAddr : DWord) : FqRecord :=
  let b := s.block c
  ⟨BitVec.ofNat 256 (b.rect % 2 ^ 16 + b.bx * 2 ^ 16 + b.bY * 2 ^ 24 + slotCode * 2 ^ 32 + cause * 2 ^ 48 +
    taddr.toNat * 2 ^ 64 + recAddr.toNat * 2 ^ 128)⟩

/-! ## The sequencer stops (R152, R280) -/

def seqStateCode : SeqState → Nat
  | .idle => 0
  | .running => 1
  | .stopped => 2

/-- The stream-position record, offsets 0x00 to 0x2F (R280). The model's sequencer never runs ahead: its speculative
position, whose distance R151 leaves open, is always the committed one (DESIGN CHOICE, log entry 49). -/
def writeSeqRecord (s : State) (c : Nat) : State :=
  let q := (s.block c).seq
  let s := saveWrite s c 0x00 q.spc.toNat 8
  let s := saveWrite s c 0x08 q.spc.toNat 8
  let s := saveWrite s c 0x10 (leNat ((q.sc.map (fun x => leBytes x.toNat 2)).flatten)) 8
  let s := saveWrite s c 0x18 q.parity.toNat 4
  let s := saveWrite s c 0x1C q.parts.toNat 4
  let s := saveWrite s c 0x20 (seqStateCode q.state + 2 ^ 8 * q.cause) 8
  saveWrite s c 0x28 q.cw.toNat 8

def State.modSeq (s : State) (c : Nat) (f : Seq → Seq) : State := s.modBlock c (fun b => { b with seq := f b.seq })

/-- An MBAR.SYNC that has arrived and still waits is settled before positions are recorded, so that no word at the
committed position has changed a barrier (R151): it completes where its phase has, and else its arrival is taken back.
-/
def seqSettle (s : State) (c : Nat) : State :=
  match (s.block c).seq.armed with
  | none => s
  | some n =>
    let w := barrierWord s c n
    if w.getLsbD 31 != (s.block c).seq.parity.getLsbD n then
      s.modSeq c (fun q => { q with armed := none, parity := q.parity ^^^ (1#32 <<< n), spc := q.spc + 1,
                                       line := q.line.map (·.past q.spc) })
    else
      let s := if w.toNat % 2 ^ 15 = 0 then s else xWrite s c (barrierAddr n) (leBytes (w.toNat - 1) 4)
      s.modSeq c (fun q => { q with armed := none })

/-- A stream stops: positions recorded, completion word written, one arrival at each barrier of its set. -/
def seqStop (s : State) (c code cause : Nat) : State :=
  let s := (seqSettle s c).modSeq c (fun q => { q with state := .stopped, cause := cause, reuse := none, waiting := none,
                                                       owed := [] })
  let s := writeSeqRecord s c
  let q := (s.block c).seq
  let s := completionWrite s (s.agent c) q.cw q.spc.toNat cause code
  ((List.range 32).filter (fun n => q.parts.getLsbD n)).foldl (fun s n => arrive s c n true) s

/-! ## Killing a block (R279) -/

/-- A TCPY.RESUME at the position that its completion word gave (R485). -/
def CopyCmd.loaded (k : CopyCmd) : CopyCmd :=
  match k.resumeFrom with
  | some (_, p) => { k with resumeFrom := none, pos := 32 * p }
  | none => k

/-- Threads stop, a running stream and every copy command end with ABORTED, and the error record is written. -/
def killBlock (s : State) (c : Nat) (tcause : Nat) (pc : Nat) : State :=
  let s := { s with threads := s.threads.map (fun t =>
    if t.core == c then { t with live := false, pend := [], tx := none, wait := .none } else t) }
  let s := if (s.block c).seq.state == .running then seqStop s c codeAborted 0 else s
  let ours := s.copies.filter (fun (k : CopyCmd) => k.block.any (fun b => b.1 == c) && k.ended.isNone)
  let s := { s with copies := s.copies.map (fun (k : CopyCmd) =>
    if k.block.any (fun b => b.1 == c) && k.ended.isNone then { k.loaded with ended := some (codeAborted, 0) } else k) }
  let s := ours.foldl (fun (s : State) (k : CopyCmd) => s.post (.copyCommandEnd k.id)) s
  let s := s.modBlock c (fun b => { b with killed := true })
  let b := s.block c
  let s := s.modRoute b.route (fun r => { r with failedWps := insertNat r.failedWps b.wp })
  errorOfBlock s c 3 tcause pc

/-! ## Taking a fault -/

/-- TADDR of a fault at word w (R270): the access, else the word's own byte address. -/
def Trap.taddr (tr : Trap) (w : DWord) : DWord := tr.addr.getD (12 * w)

def tcauseWord (ncause kind cause : Nat) : Word :=
  BitVec.ofNat 32 (ncause % 256 * 2 ^ 16 + kind % 16 * 2 ^ 8 + cause % 256)

/-- The flags word of a fault record (R270). -/
def recordFlags (t : Thread) : Nat :=
  b2n t.pendPoison + 2 * b2n (t.susp != .none) + 4 * b2n t.frozen + 8 * b2n t.rfLatch.isSome +
  b2n t.pendLost.isSome * 16 + (t.pendLost.getD 0) % 1024 * 2 ^ 6 + (t.rfLatch.getD 0) % 1024 * 2 ^ 16

/-- The fault record of R270. -/
def writeFaultRecord (s : State) (c q : Nat) (tpc taddr : DWord) (tcause : Word) (tr : Trap) : State :=
  let a := threadRecord q + 0x900
  let s := saveWrite s c a tpc.toNat 8
  let s := saveWrite s c (a + 0x08) taddr.toNat 8
  let s := saveWrite s c (a + 0x10) tcause.toNat 4
  let s := saveWrite s c (a + 0x14) tr.extra 4
  let s := saveWrite s c (a + 0x18) tr.phys 8
  let s := saveWrite s c (a + 0x20) tr.producer.toNat 8
  saveWrite s c (a + 0x34) (recordFlags (s.thread c q)) 4

/-- TCAUSE and the flags of the record as the thread now has them (R270). -/
def writeTail (s : State) (c q : Nat) : State :=
  let a := threadRecord q + 0x900
  let s := saveWrite s c (a + 0x10) (s.thread c q).tcause.toNat 4
  saveWrite s c (a + 0x34) (recordFlags (s.thread c q)) 4

/-- The nested fields of the record (R277). -/
def writeNested (s : State) (c q : Nat) (taddr : DWord) (extra : Nat) : State :=
  let a := threadRecord q + 0x900
  let s := saveWrite s c (a + 0x28) taddr.toNat 8
  writeTail (saveWrite s c (a + 0x30) extra 4) c q

/-- A thread is suspended for the package kernel (R274): it keeps its slot and a record enters the fault queue. -/
def suspend (s : State) (c q : Nat) (why : Susp) (cause : Nat) (taddr : DWord) : State :=
  let s := s.modThread c q (fun t => { t with susp := why })
  let s := saveWrite s c (threadRecord q + 0x934) (recordFlags (s.thread c q)) 4
  fqPush s (fqRecord s c q cause taddr ((s.block c).saveBase + BitVec.ofNat 64 (threadRecord q + 0x900)))

/-- DOUBLE (R278, R509): CAUSE is 0x22, KIND 0, NCAUSE stays, EXTRA is the nested fault's; the thread freezes and its
block is killed. -/
def raiseDouble (s : State) (c q : Nat) (extra : Nat) : State :=
  let s := s.modThread c q (fun t => { t with tcause := (t.tcause &&& 0x00FF0000#32) ||| 0x22#32, frozen := true })
  let s := writeTail (saveWrite s c (threadRecord q + 0x914) extra 4) c q
  killBlock s c (s.thread c q).tcause.toNat (s.thread c q).tpc.toNat

/-- A fault taken while INTRAP is set (R277). -/
def nestedFault (s : State) (c q : Nat) (tr : Trap) : State :=
  let pc := (s.thread c q).pc
  let s := s.modThread c q (fun t => { t with
    tcause := (t.tcause &&& 0xFF00FFFF#32) ||| BitVec.ofNat 32 (tr.cause % 256 * 2 ^ 16) })
  let s := writeNested s c q (tr.taddr pc) tr.extra
  if resolvable tr.cause then
    suspend s c q (.nested (tr.taddr pc) (BitVec.ofNat 32 tr.extra)) tr.cause (tr.taddr pc)
  else raiseDouble s c q tr.extra

/-- The fault that a poisoned or lost result becomes (R286, R287). The result of a word that is no load or atomic comes
from no access and has no producer word (R270). -/
def resultTrap (p : Pending) : Trap :=
  let cause := if p.lost.isSome then cPeerLost else cPoison
  let extra := p.lost.getD (p.poison.getD 0)
  if p.kind = 0 then Trap.plain cause extra else ⟨cause, extra, p.kind, some p.addr, p.phys, p.producer⟩

/-- The return from a trap (R489): the handler's levels go, the shadow returns, INTRAP clears, TPC is next. The levels
come from the thread's own copy of the shadow; whether software may change the record at 0x940 before them R87 does not
say (DESIGN CHOICE, log entry 77). -/
def returnFromTrap (s : State) (c q : Nat) : State :=
  s.modThread c q (fun t => { t.invalidateLatches with
    loops := if t.shadowV then t.shadow else []
    shadowV := false
    tst := t.tst &&& ~~~0x100#32
    pc := t.tpc })

/-! ## Loops -/

/-- The innermost active level, as an index (R90). -/
def Thread.innermost (t : Thread) : Option Nat :=
  (List.range t.loops.length).reverse.find? (fun i => (t.loops[i]?).any (fun l => !l.susp))

/-- A level pops, with what stands above it. That an active level lies below a suspended one only an edited image brings
about, and R93 gives no outcome: the suspended ones above it go too (DESIGN CHOICE, log entry 86). -/
def Thread.popLevel (t : Thread) (i : Nat) : Thread := { t with loops := t.loops.take i }

def Thread.setLevel (t : Thread) (i : Nat) (l : LoopLevel) : Thread := { t with loops := t.loops.set i l }

/-- The stage predicates of one back edge (R93): p8 to p14 move up, p8 is new. -/
def shiftStages (p : BitVec 16) (p8 : Bool) : BitVec 16 :=
  (p &&& 0xFF#16) ||| ((p &&& 0x7F00#16) <<< 1) ||| (if p8 then 0x100#16 else 0#16)

/-- One back edge of a level (R93). -/
def backEdge (t : Thread) (i : Nat) (l : LoopLevel) : Thread :=
  let cnt := l.cnt - 1
  let z := 8 * l.wsize.toNat
  let l' := { l with
    cnt := cnt
    rrb := if l.wsize = 0 then l.rrb else BitVec.ofNat 7 ((l.rrb.toNat + z - 1) % z) }
  let t := t.setLevel i l'
  if l.stgm1 = 0 then t
  else { t with preds := shiftStages t.preds (l.stgm1.toNat + 1 ≤ cnt.toNat) }

/-- The end-word evaluation (R93): the thread with its levels updated and the word that follows. -/
def endWord : Nat → Thread → Thread × DWord
  | 0, t => (t, t.pc + 1)
  | fuel + 1, t =>
    match t.innermost with
    | none => (t, t.pc + 1)
    | some i =>
      match t.loops[i]? with
      | none => (t, t.pc + 1)
      | some l =>
        if l.last ≠ t.pc then (t, t.pc + 1)
        else if 1 < l.cnt.toNat then (backEdge t i l, l.base)
        else endWord fuel (t.popLevel i)

/-- LROT of a level (R90). -/
def LoopLevel.lrot (l : LoopLevel) : Word :=
  BitVec.ofNat 32 (b2n l.susp * 2 ^ 31 + l.stgm1.toNat * 2 ^ 28 + l.wbase.toNat * 2 ^ 22 + l.wsize.toNat * 2 ^ 17 +
    l.rrb.toNat)

/-- Loop levels written from an offset of a block's image on (R84). -/
def writeLevels (s : State) (c off : Nat) : List LoopLevel → State
  | [] => s
  | l :: r =>
    let v := l.cnt.toNat + l.lrot.toNat * 2 ^ 32 + l.base.toNat * 2 ^ 64 + l.last.toNat * 2 ^ 128
    writeLevels (saveWrite s c off v 24) c (off + 0x20) r

/-- TRAP ENTRY (R269): every tag commits and the latches go; then a nested fault, or the record and a suspension, the
end of the block, or the handler. An end word that raises SWTRAP is evaluated first, a handler's too (R93, R488), and
continues where R93 chose (R101); the tags commit before that evaluation (DESIGN CHOICE, log entry 87). RELEASE_FAILED
clears the latch once the record holds it (R292). -/
def takeFault (s : State) (c q : Nat) (f : Trap) : State :=
  let pc := (s.thread c q).pc
  let r := commitAll s c q
  let tr : Trap := match r.2 with
    | some p => resultTrap p
    | none => f
  let ncause := if r.2.isSome then f.cause else 0
  let s := r.1.modThread c q (fun t => { t with latches := [], wait := .none })
  let spend := fun (s : State) => if tr.cause = cReleaseFailed then s.modThread c q (fun t => { t with rfLatch := none })
    else s
  let ev := if tr.cause = cSwTrap then endWord 5 (s.thread c q) else (s.thread c q, pc)
  let s := s.modThread c q (fun _ => ev.1)
  if (s.thread c q).inTrap then spend (nestedFault s c q tr)
  else
    let tc := tcauseWord ncause tr.kind tr.cause
    let s := spend (writeFaultRecord s c q ev.2 (tr.taddr pc) tc tr)
    let tvec := (s.block c).tvecAt s.clock q
    if tvec = 0 then
      if resolvable tr.cause then suspend s c q (.fault (tr.taddr pc) tc) tr.cause (tr.taddr pc)
      else killBlock s c tc.toNat ev.2.toNat
    else
      let s := writeLevels s c (threadRecord q + 0x940) (s.thread c q).loops
      s.modThread c q (fun t => { t with
        tpc := ev.2
        taddr := tr.taddr pc
        tcause := tc
        shadow := t.loops
        shadowV := true
        loops := []
        tst := t.tst ||| 0x100#32
        pc := tvec })

/-- A word that completes (R93). -/
def completeWord (s : State) (c q : Nat) : State :=
  s.modThread c q (fun t => let r := endWord 5 t; { r.1 with pc := r.2 })

/-- The levels whose bodies exclude a target pop (R97). -/
def popOutside : Nat → Thread → DWord → Thread
  | 0, t, _ => t
  | fuel + 1, t, target =>
    match t.innermost with
    | none => t
    | some i =>
      match t.loops[i]? with
      | none => t
      | some l =>
        if l.base.toNat ≤ target.toNat && target.toNat ≤ l.last.toNat then t
        else popOutside fuel (t.popLevel i) target

/-- A branch (R97). -/
def branchTo (s : State) (c q : Nat) (target : DWord) : State :=
  s.modThread c q (fun t => { popOutside 5 t target with pc := target })

/-! ## Instruction fetch (R329, R330) -/

/-- Instruction bytes of one page: their physical address, the bytes, and poison (R286, R291, R314). -/
def fetchPart (s : State) (ag : Agent) (a n : Nat) : State × Except Trap (Nat × List Byte × Bool) :=
  let r := checkAccess s ag (BitVec.ofNat 64 a) n needX 4
  match r.2 with
  | .error t => (r.1, .error t)
  | .ok x =>
    let b := agentRead r.1 ag.ctx x n
    (b.1, .ok (x.pa, b.2.1, b.2.2))

/-- The bytes of a word at a context's word address as they stand now, and the runs of physical bytes they come from:
the faults of its one or two pages, the poison of the first that has it (EXTRA 3). -/
def fetchBytes (s : State) (ag : Agent) (w : DWord) : State × Except Trap (List (Nat × Nat) × List Byte) :=
  let a := 12 * w.toNat
  let bad := fun (pa : Nat) => Trap.at cPoison 3 4 (12 * w) pa
  if 2 ^ 52 ≤ a + 11 then (s, .error (Trap.at cPerm 1 4 (12 * w)))
  else
    let n1 := Nat.min 12 (65536 - a % 65536)
    let r1 := fetchPart s ag a n1
    match r1.2 with
    | .error t => (r1.1, .error t)
    | .ok x1 =>
      if n1 = 12 then (r1.1, if x1.2.2 then .error (bad x1.1) else .ok ([(x1.1, 12)], x1.2.1))
      else
        let r2 := fetchPart r1.1 ag (a + n1) (12 - n1)
        match r2.2 with
        | .error t => (r2.1, .error t)
        | .ok x2 =>
          (r2.1, if x1.2.2 then .error (bad x1.1) else if x2.2.2 then .error (bad x2.1)
            else .ok ([(x1.1, n1), (x2.1, 12 - n1)], x1.2.1 ++ x2.2.1))

/-- The parts of n bytes of code, in the one or two pages that translate, with their lengths. -/
def codeParts (s : State) (ag : Agent) (a n : Nat) : List (Xlated × Nat) :=
  let part := fun (a n : Nat) => match (checkAccess s ag (BitVec.ofNat 64 a) n needX 4).2 with
    | .ok x => [(x, n)]
    | .error _ => []
  let m := Nat.min n (65536 - a % 65536)
  part a m ++ if m = n then [] else part (a + m) (n - m)

/-- The bytes of some runs, by physical address. -/
def runAddrs (runs : List (Nat × Nat)) : List Nat := runs.flatMap (fun r => (List.range r.2).map (r.1 + ·))

/-- Those of n bytes of code. -/
def codeAddrs (s : State) (ag : Agent) (a n : Nat) : List Nat :=
  runAddrs ((codeParts s ag a n).map (fun x => (x.1.pa, x.2)))

/-- A fetch reads its line as a whole: the dirty bytes of every part of it are obtained (R216, R329). -/
def obtainLine (s : State) (ag : Agent) (line : Nat) : State :=
  (codeParts s ag (48 * line) 48).foldl (fun s x =>
    if paTier x.1.pa = 3 || (s.remote x.1.pa && !s.live.contains (paPkg x.1.pa)) then s
    else if x.1.pte.cpol = 2 then obtainUncached s x.1.pa x.2 x.1.pte.grain
    else obtain s x.1.pa x.2 x.1.pte.grain) s

/-- The writers that are in the middle of storing a word, with the bytes that each has still to store, after one more
note: a writer is done when it has stored every byte of the word, round by round. What was written before version `n`, a
launch, is done also where its writer had released it or ended by then, or is no thread or command; a part that is
released later is never done (DESIGN CHOICE, log entry 69). -/
def noteOpen (n : Nat) (word : List Nat) (opn : List (Nat × List Nat)) (e : CodeNote × Nat) : List (Nat × List Nat) :=
  let who := e.1.who
  let rest := opn.filter (fun x => x.1 != who)
  let has := fun (a : Nat) => e.1.old.any (fun o => o.1 == a)
  if e.1.old.isEmpty then
    (if e.2 < n then rest else opn.map (fun x => if x.1 == who then (0, x.2) else x))
  else if !word.any has then opn
  else
    let before := if who = 0 then word else ((opn.find? (fun x => x.1 == who)).map (·.2)).getD word
    let left := before.filter (fun a => !has a)
    if left.isEmpty || (who = 0 && e.2 < n) then rest else (who, left) :: rest

/-- The latest version up to `v` in which a word is whole: nobody is in the middle of storing it (R330). `n` is the
version of the launch or resumption that the fetching core acquires. -/
def wordVersion (s : State) (n : Nat) (word : List Nat) (v : Nat) : Nat :=
  (((s.replaced.reverse.take v).zipIdx).foldl (fun (acc : List (Nat × List Nat) × Nat) e =>
    let opn := noteOpen n word acc.1 e
    (opn, if opn.isEmpty then e.2 + 1 else acc.2)) ([], 0)).2

/-- A word as a fetch finds it in a version of memory: with the bytes of its latest whole version. -/
def wordAt (s : State) (n : Nat) (word : List Nat) (v : Nat) : List Byte := word.map (byteAt s (wordVersion s n word v))

/-- The versions in which a fetch may find a line (R330): that of the launch or resumption, `old`, and after each write
to the line since then that leaves every word of it whole; one version for each contents that the line has had (DESIGN
CHOICE, log entry 69). -/
def lineVersions (s : State) (ag : Agent) (old line : Nat) : List Nat :=
  let all := codeAddrs s ag (48 * line) 48
  let words := (List.range 4).map (fun i => codeAddrs s ag (48 * line + 12 * i) 12)
  let hits := (s.replaced.reverse.zipIdx.filter (fun e => old ≤ e.2 && e.1.old.any (fun o => all.contains o.1))).map (·.2)
  let bytes := fun (v : Nat) => words.flatMap (fun w => wordAt s old w v)
  (((hits.map (· + 1)).filter (fun v => words.all (fun w => wordVersion s old w v == v))).foldl (fun l v =>
    if l.any (fun u => bytes u == bytes v) then l else l ++ [v])
    [if hits.isEmpty then s.replaced.length else old])

/-- The number of the sequencer among the fetchers of a core; a thread has its slot's. -/
def seqFetcher : Nat := 2048

/-- The line that a fetcher passes through when it fetches word `w`. A pass through a line, upwards, sees one version of
it, a word that is held and fetched again included; a new pass gets any version, a free choice of its own (R330; DESIGN
CHOICE, log entry 69). -/
def fetchLine (s : State) (ag : Agent) (who : Nat) (w : DWord) (last : Option LineFetch) : State × LineFetch :=
  let line := w.toNat / 4
  match last.filter (fun l => l.line == line && l.next.toNat ≤ w.toNat) with
  | some l => (s, { l with next := w })
  | none =>
    let s := obtainLine s ag line
    match lineVersions s ag (s.coreRec ag.core).codeFrom line with
    | [v] => (s, ⟨line, v, w⟩)
    | vs => ({ s with freeCtr := s.freeCtr + seqFetcher + 1 },
      ⟨line, vs.getD (Config.freeNat (s.freeCtr + who) % vs.length) s.replaced.length, w⟩)

def State.lineOf (s : State) (c who : Nat) : Option LineFetch :=
  if who = seqFetcher then (s.block c).seq.line else (s.thread c who).line

def State.setLine (s : State) (c who : Nat) (l : Option LineFetch) : State :=
  if who = seqFetcher then s.modSeq c (fun q => { q with line := l })
  else s.modThread c who (fun t => { t with line := l })

/-- Fetch through the core's instruction cache for one fetcher, a slot or the sequencer (R330). -/
def fetchWord (s : State) (ag : Agent) (who : Nat) (w : DWord) : State × Except Trap IWord :=
  let r := fetchBytes s ag w
  match r.2 with
  | .error t => (r.1, .error t)
  | .ok (runs, b) =>
    let l := fetchLine r.1 ag who w (s.lineOf ag.core who)
    let n := (l.1.coreRec ag.core).codeFrom
    let bytes := if wordVersion l.1 n (runAddrs runs) l.2.version = l.1.replaced.length then b
      else wordAt l.1 n (runAddrs runs) l.2.version
    (l.1.setLine ag.core who (some l.2), .ok (BitVec.ofNat 96 (leNat bytes)))

/-- A thread of a state `u` passes the line that it fetches its word from in a state `s`. -/
def noteFetched (s u : State) (c q : Nat) : State :=
  u.setLine c q ((fetchWord s (s.agent c) q (s.thread c q).pc).1.lineOf c q)

/-! ## The return stack (R87) -/

/-- Where entry i of a slot's return stack spills to in the image. -/
def returnOff (q i : Nat) : Nat := threadRecord q + 0x700 + 8 * i

/-- After a push at depth `old`: the entry that has left the 16 newest spills, and at depth 64, where the entries have
shifted down, every older one. -/
def spillReturns (s : State) (c q old : Nat) : State :=
  let st := (s.thread c q).stack
  let is := if 64 ≤ old then List.range (st.length - 16) else if 17 ≤ st.length then [st.length - 17] else []
  is.foldl (fun s i => saveWrite s c (returnOff q i) (st.getD i 0).toNat 8) s

/-- After the depth has fallen from `old`: the spilled entries that are among the 16 newest again come back. -/
def fillReturns (s : State) (c q old : Nat) : State :=
  ((List.range (old - 16)).drop ((s.thread c q).stack.length - 16)).foldl (fun s i =>
    match imgAddr (s.block c) (returnOff q i) with
    | some pa =>
      let r := physRead s pa 8
      r.1.modThread c q (fun t => { t with stack := t.stack.set i (BitVec.ofNat 64 r.2.1) })
    | none => s) s

/-! ## Transaction aborts (R243 to R247) -/

def txCommitted : Nat := 0
def txConflict : Nat := 1
def txReadFull : Nat := 2
def txWriteFull : Nat := 3
def txNonlocal : Nat := 4
def txPoison : Nat := 5
def txXlate : Nat := 6
def txPreempt : Nat := 7
def txIllegal : Nat := 8
def txNoSlot : Nat := 9
def txExplicit : Nat := 10
def txLocked : Nat := 11
def txNone : Nat := 12

/-- The status word (R246). -/
def txStatus (rd wr depth detail cause : Nat) : Word :=
  BitVec.ofNat 32 (rd * 2 ^ 23 + wr * 2 ^ 19 + depth * 2 ^ 16 + detail % 256 * 2 ^ 8 + cause)

/-- The outcome of a TXE enters the pending-result buffer under its tag (R239). -/
def deliverTxe (s : State) (c q : Nat) (w : FForm) (pc : DWord) (ok : Bool) (status : Word) : State :=
  let ds := dstRegs (s.thread c q) w.d 1
  allocTag s c q ⟨w.ctl.alloc.toNat, splitValue ds status.toNat, some (w.prd, ok), 0, true, none, none, pc, 0, 0,
    w.d.code, 0, 0, false⟩

/-- The suspension bits of a return entry laid over the levels (R100). -/
def restoreSusp (loops : List LoopLevel) (e : DWord) : List LoopLevel :=
  loops.mapIdx (fun i l => { l with susp := e.getLsbD (60 + i) })

def roleCode : Role → Nat
  | .gen => 0
  | .copy => 1
  | .feed => 2
  | .epi => 3

/-- The limit L of a role (R62). -/
def Block.limitOf (b : Block) (r : Role) : Nat := ((b.roles.find? (fun x => x.role == r)).map (·.limit)).getD 384

/-- The decode-phase faults that depend on the thread (R273): ROLE, REG_RANGE, PRIV. -/
def threadDecodeFault (b : Block) (t : Thread) (i : Instr) : Option Trap :=
  if !i.roleOk t.role then some (Trap.plain cRole (roleCode t.role))
  else
    match i.regRangeFault (b.limitOf t.role) with
    | some n => some (Trap.plain cRegRange n)
    | none => (i.privFault).map (fun n => Trap.plain cPriv n)

/-- An abort (R244) of the transaction that `tx` describes: the thread goes on after its exit word as if the TXE there
had reported the failure. The transfer is a branch to the exit word and past it. The answer is a fault at the exit
word, if that word does not complete: then the abort's status is lost (DESIGN CHOICE, log entry 73: R244 says it of a
word that is no TXE alone). The TXE's WAIT and ALLOC count; its YLD and KEEP, which R244 leaves open, have no effect
(DESIGN CHOICE, log entry 94). SMASK comes from the thread's own copy of entry SavedRsd, spilled or not (DESIGN CHOICE,
log entry 77). -/
def abortTry (s : State) (c q : Nat) (tx : Tx) (cause detail : Nat) : State × Option Trap :=
  let status := txStatus tx.reads.length tx.writes.length tx.depth detail cause
  let depth := (s.thread c q).stack.length
  let s := s.modThread c q (fun t =>
    let loops := t.loops.take tx.savedLdepth
    { t with
      tx := none
      wait := .none
      loops := match (if tx.savedRsd < t.stack.length then t.stack[tx.savedRsd]? else none) with
        | some e => restoreSusp loops e
        | none => loops
      stack := t.stack.take tx.savedRsd })
  let s := fillReturns (branchTo s c q tx.exitWord) c q depth
  let f := fetchWord s (s.agent c) q tx.exitWord
  match f.2 with
  | .error t => (f.1, some t)
  | .ok w =>
    match decodeThread w with
    | .ok (.txe x) =>
      match threadDecodeFault (f.1.block c) (f.1.thread c q) (.txe x) with
      | some t => (f.1, some t)
      | none =>
        let r := commitTags f.1 c q (Ctl.tags x.ctl)
        match r.2 with
        | some p => (r.1, some (resultTrap p))
        | none => (branchTo (deliverTxe r.1 c q x tx.exitWord false status) c q (tx.exitWord + 1), none)
    | _ => (f.1, some (Trap.plain cIllegalEncoding 0))

/-- An abort whose fault at the exit word, if any, is taken. -/
def abortFrom (s : State) (c q : Nat) (tx : Tx) (cause detail : Nat) : State :=
  let r := abortTry s c q tx cause detail
  match r.2 with
  | some t => takeFault r.1 c q t
  | none => r.1

/-- Abort the thread's open transaction. -/
def abortTx (s : State) (c q : Nat) (cause detail : Nat) : State :=
  match (s.thread c q).tx with
  | some tx => abortFrom s c q tx cause detail
  | none => s

/-- A fault of a thread: taken, or inside a transaction the abort that takes its place (R243). -/
def raiseFault (s : State) (c q : Nat) (tr : Trap) : State :=
  if (s.thread c q).tx.isSome then
    if tr.cause = cNotPresent ∨ tr.cause = cPerm then abortTx s c q txXlate tr.cause
    else if tr.cause = cPoison then abortTx s c q txPoison tr.cause
    else abortTx s c q txIllegal tr.cause
  else takeFault s c q tr

/-! ## The issue of a word (R268, R273) -/

/-- What a word did in one thread. -/
inductive Eff where
  /-- It completed; the end word is evaluated (R93). -/
  | done (s : State)
  /-- It transferred control (R97). -/
  | goto (s : State) (target : DWord)
  /-- It has set the PC itself. -/
  | moved (s : State)
  /-- It holds the thread at the word. -/
  | hold (s : State)
  /-- It faulted and had no effect. -/
  | trap (s : State) (t : Trap)
  /-- It aborted the thread's transaction. -/
  | abort (s : State) (cause detail : Nat)

/-- The words that abort a transaction with ILLEGAL and DETAIL 0 (R243). -/
def txForbidden : Instr → Bool
  | .fence _ | .red _ | .tcpy _ | .tcpyResume _ | .tseal _ | .twait _ | .pfetch _ | .coll _ | .emit _ | .setfSt _
  | .setfAdd _ | .waitf _ | .waitw _ | .barArv _ | .barWt _ | .barSync _ | .svc _ | .trap _ | .tret _ => true
  | _ => false

/-- The bookkeeping of an issue: age and promotion (R32), the yield bit (R31), KEEP, the pass through a code line
(R330), and the latches of the other threads of the home lane (R79). -/
def startIssue (s : State) (c q : Nat) (k : Ctl) : State :=
  let upd := fun (t : Thread) =>
    if t.at c q then { t with
      age := 0, promoted := false, yld := t.yld || k.yld, keep := k.keep && !k.yld, line := t.line.map (·.past t.pc) }
    else if t.core == c && quarterOf t.slot == quarterOf q && laneOf t.slot == laneOf q then t.invalidateLatches
    else t
  { s with threads := s.threads.map upd, issued := true }

/-- The control fields of a turn whose word does not issue: no tag, no KEEP, no YLD. -/
def noCtl : Ctl := ⟨7, 0, false, false⟩

/-- The operands that a thread reads: of a pair, those of the halves whose guards are true. -/
def liveUses (t : Thread) (i : Instr) : List Use :=
  match i with
  | .pair _ x y => (if t.pred x.g.toNat then x.uses else []) ++ (if t.pred y.g.toNat then y.uses else [])
  | _ => i.uses

/-- What the meaning of an instruction answers. -/
abbrev Out := Host.Outcome State Fault Refusal

/-- How a word's outcome ends the issue. -/
def finishIssue (c q : Nat) (e : Eff) : State :=
  match e with
  | .done s => completeWord s c q
  | .goto s target => branchTo s c q target
  | .moved s => s
  | .hold s => s
  | .trap s t => raiseFault s c q t
  | .abort s cause detail => abortTx s c q cause detail

/-- What a pre-emption left for the thread's next issue, whose turn it uses up (R32, R287): POISON, whose record no
longer tells memory from X-buffer (a free choice), or PEER_LOST. -/
def resumeFault (s : State) (c q : Nat) : Option (State × Trap) :=
  let t := s.thread c q
  if t.pendPoison then
    let ch := s.takeBool
    some (ch.2.modThread c q (fun t => { t with pendPoison := false }), Trap.plain cPoison (b2n ch.1))
  else match t.pendLost with
    | some k => some (s.modThread c q (fun t => { t with pendLost := none }), Trap.plain cPeerLost k)
    | none => none

/-- One thread issues a word: decode-phase faults, the commit of its tags, the guard, latches, then `on` under a true
guard and `off` under a false one. A fault of decoding, or of a result that the word waits for, comes before the word
issues, so that its KEEP and YLD do not count (R31, R51, R286). A slot with no live thread does nothing. -/
def issueOne (i : Instr) (on off : Nat → Nat → State → Eff) (c : Nat) (s : State) (q : Nat) : State :=
  let t := s.thread c q
  if !t.live then s
  else match resumeFault s c q with
  | some r => raiseFault (startIssue r.1 c q noCtl) c q r.2
  | none =>
    match threadDecodeFault (s.block c) t i with
    | some f => raiseFault (startIssue s c q noCtl) c q f
    | none =>
      let r := commitTags (startIssue s c q i.ctl) c q (Ctl.tags i.ctl)
      match r.2 with
      | some p => raiseFault (commitTags (startIssue s c q noCtl) c q (Ctl.tags i.ctl)).1 c q (resultTrap p)
      | none =>
        let t := r.1.thread c q
        if !Guard.holds i.guard t then finishIssue c q (off c q r.1)
        else if t.tx.isSome && txForbidden i then abortTx r.1 c q txIllegal 0
        else match lostLatch t (liveUses t i) with
          | some n => raiseFault r.1 c q (Trap.plain cLatchLost n)
          | none =>
            if readsStruck t (liveUses t i) then raiseFault r.1 c q ⟨cPoison, 2, 6, none, 0, 0⟩
            else finishIssue c q (on c q r.1)

/-- A thread of a party will act on a word: no fault comes before it, and its guard is true. -/
def acts (i : Instr) (c : Nat) (s : State) (q : Nat) : Bool :=
  let t := s.thread c q
  let r := commitTags s c q (Ctl.tags i.ctl)
  let u := r.1.thread c q
  t.live && (resumeFault s c q).isNone && (threadDecodeFault (s.block c) t i).isNone && r.2.isNone && Guard.holds i.guard u &&
    !(u.tx.isSome && txForbidden i) && (lostLatch u (liveUses u i)).isNone && !readsStruck u (liveUses u i)

/-- The members of the acting party whose guard is true, ascending. -/
def actingSlots (i : Instr) (s : State) : List Nat :=
  match s.actor with
  | .party c slots => slots.filter (fun q => acts i c s q)
  | _ => []

/-- The threads of the acting party, in ascending slot order, issue a word one after another (R30, R181). -/
def issueWord (i : Instr) (on : Nat → Nat → State → Eff) (off : Nat → Nat → State → Eff := fun _ _ s => .done s)
    (s : State) : State :=
  match s.actor with
  | .party c slots => slots.foldl (fun s q => issueOne i on off c s q) s
  | _ => s

/-! ## Results -/

/-- A fixed-latency result: the destination is written unless NWB, flags are set, k1 takes the low word (R76, R78). -/
def fixedResult (s : State) (c q : Nat) (d : Opnd) (nwb : Bool) (size : Nat) (v : Nat) (f : Flags) : State :=
  let ds := dstRegs (s.thread c q) d size
  let s := if nwb then s else writeRegs s c q (splitValue ds v)
  let s := if f = 0 then s else raiseFlags s c q f
  match d with
  | .s _ => s
  | _ =>
    let src := if nwb then none else match ds with
      | .v p :: _ => some p
      | _ => none
    s.modThread c q (fun t => t.pushLatch ⟨BitVec.ofNat 32 v, src, true⟩)

/-- The latch of a fixed-latency word under a false guard: the unchanged D, or suppressed (R76). What a still valid k1
returns where it is only marked suppressed, R76 leaves open: here the unchanged D, and 0 where D is 452 or the word is a
NOP (DESIGN CHOICE, log entry 50). -/
def fixedSkip (s : State) (c q : Nat) (d : Opnd) (nwb : Bool) : State :=
  match d with
  | .v n =>
    let t := s.thread c q
    let p := rotateName t.loops n.val
    s.modThread c q (fun t => t.pushLatch
      ⟨SMap.get t.regs p, if nwb then none else some p, true⟩)
  | .zero => s.modThread c q (fun t => t.pushLatch ⟨0, none, true⟩)
  | _ => s

/-- A fixed-latency word whose result is a function of its operands (R70). -/
def fixedWord (i : Instr) (d : Opnd) (nwb : Bool) (size : Nat) (f : Nat → Nat → State → Nat × Flags) (s : State) :
    State :=
  issueWord i (fun c q s => let r := f c q s; .done (fixedResult s c q d nwb size r.1 r.2))
    (fun c q s => .done (fixedSkip s c q d nwb)) s

/-- A fixed-latency word that writes a predicate: k1 takes 1 or 0 and counts as suppressed (R388). -/
def predWord (i : Instr) (prd : Nat) (f : Nat → Nat → State → Bool) (s : State) : State :=
  issueWord i
    (fun c q s =>
      let v := f c q s
      .done ((writePred s c q prd v).modThread c q (fun t => t.pushLatch ⟨BitVec.ofNat 32 (b2n v), none, true⟩)))
    (fun c q s => .done (fixedSkip s c q .zero false)) s

/-- A variable-latency word whose result is a function of its operands: the value waits under the tag (R73); under a
false guard the tag's result is empty (R75). -/
def tagWord (i : Instr) (alloc : BitVec 3) (d : Opnd) (size : Nat) (f : Nat → Nat → State → Nat × Flags) (s : State) :
    State :=
  issueWord i
    (fun c q s =>
      let t := s.thread c q
      let r := f c q s
      .done (allocTag s c q ⟨alloc.toNat, splitValue (dstRegs t d size) r.1, none, r.2, false, none, none, t.pc, 0, 0,
        d.code, size - 1, 0, false⟩))
    (fun c q s => .done (allocTag s c q (emptyResult alloc.toNat (s.thread c q).pc d size))) s

end Sys2Proof.Machine
end

