-- ==== Sys2Proof/Machine/Global.lean ====
section
/-! DEFINITION. Global memory as a thread reaches it: other packages and posted writes (R227, R291, R314), cache
policies (R200), the transaction logs (R242, R243), what a release and an acquire do at each scope (R225, R226), and
byte ranges (R228, R229). -/

namespace Sys2Proof.Machine

/-- Why a word stops in a thread: a fault, or inside a transaction an abort. -/
inductive Stop where
  | trap (t : Trap)
  | abort (cause detail : Nat)
  deriving DecidableEq, Repr

def Stop.eff (s : State) : Stop → Eff
  | .trap t => .trap s t
  | .abort c d => .abort s c d

/-! ## Checks -/

/-- An address that no transaction may touch (R243). -/
def State.nonlocal (s : State) (pa : Nat) : Bool := s.remote pa || paTier pa == 2 || paTier pa == 3

/-- Steps 2 to 8 of R208 for a thread; inside a transaction NONLOCAL comes after the permission check. -/
def threadChecked (tx : Bool) (r : State × Except Trap Xlated) : State × Except Stop Xlated :=
  match r.2 with
  | .error t =>
    if tx && t.cause == cPerm && t.extra == 4 && r.1.nonlocal t.phys then (r.1, .error (.abort txNonlocal 0))
    else (r.1, .error (.trap t))
  | .ok x =>
    if tx && (r.1.nonlocal x.pa || x.pte.cpol == 2) then (r.1, .error (.abort txNonlocal 0)) else (r.1, .ok x)

/-! ## Other packages -/

/-- The copies of some sectors in a core's L1 and its cohort's foreign ways are dropped. -/
def dropCopies (s : State) (c pa n : Nat) : State :=
  let ks := sectorsOf pa n
  dropForeign (dropClean s c (fun x => ks.contains x.sector)) c (fun k => ks.contains k)

/-- A congestion level reaches a quarter (R195). -/
def addCongestion (s : State) (c q level : Nat) : State :=
  { s with congestion := s.congestion ++ (if level = 0 then []
    else [⟨c, quarterOf q, level, s.clock + 16 * Nat.max 1 (bits s.regs.throt.toNat 31 24)⟩]) }

/-- A slice answers an access that has no tagged result: its congestion level, a free one, reaches the quarter at once
(R195; DESIGN CHOICE, log entry 76). -/
def sliceAnswer (s : State) (c q : Nat) : State :=
  let l := s.takeNat 4
  addCongestion l.2 c q l.1

/-- A posted write reaches its home: performed, with its mark and the slice's answer, refused, or lost with its member
(R195, R227, R285, R291, R314). -/
def performPosted (c q : Nat) (s : State) (p : Posted) : State :=
  if !s.live.contains (paPkg p.addr) then setLatch s c q (paPkg p.addr)
  else
    let r := remoteRefused s p.ctx p.addr (if p.op.isSome then 2 else 1)
    if r.1 then setLatch r.2 c q (paPkg p.addr)
    else
      let s := match p.op with
        | none => memWrite r.2 p.addr p.data (threadWriter c q)
        | some (aop, ty) =>
          if sectorPoisoned r.2 p.addr then r.2
          else memWrite r.2 p.addr (leBytes (aopValue aop ty (leNat (memBytes r.2 p.addr p.data.length))
            (leNat p.data) 0) p.data.length) (threadWriter c q)
      let s := if p.poison then { s with poison := (sectorsOf p.addr p.data.length).foldl insertNat s.poison } else s
      sliceAnswer s c q

/-- A posted write touches some sectors. -/
def Posted.touches (e : Posted) (p : Nat → Bool) : Bool := (sectorsOf e.addr e.data.length).any p

/-- Posted writes with a flag for those that must be performed: the ones that pass a test and, before each, the earlier
ones that it overlaps (R214, R223). -/
def mustPerform (p : Posted → Bool) : List Posted → List (Posted × Bool)
  | [] => []
  | e :: r =>
    let m := mustPerform p r
    (e, p e || m.any (fun f => f.2 && f.1.touches (fun k => (sectorsOf e.addr e.data.length).contains k))) :: m

/-- Those of a thread's posted writes that pass a test are performed, in order, and what must come before them. -/
def flushIf (s : State) (c q : Nat) (p : Posted → Bool) : State :=
  let l := mustPerform p (s.thread c q).posted
  if l.any (·.2) then
    (((l.filter (·.2)).map (·.1)).foldl (performPosted c q) s).modThread c q (fun t =>
      { t with posted := (l.filter (fun e => !e.2)).map (·.1) })
  else s

/-- All of them. -/
def flushPosted (s : State) (c q : Nat) : State := flushIf s c q (fun _ => true)

/-- Before a thread's own access to n bytes of another package: its posted writes there (R214). -/
def flushTouching (s : State) (c q pa n : Nat) : State :=
  if s.remote pa then flushIf s c q (fun e => e.touches (fun k => (sectorsOf pa n).contains k)) else s

/-- Before a thread's access to a page of CPOL 2: its posted writes to such pages (R223). -/
def flushUncached (s : State) (c q : Nat) : State := flushIf s c q (fun e => e.uncached)

/-- Steps 2 to 8 of R208 for a thread; inside a transaction NONLOCAL comes after the permission check. An access to a
page of CPOL 2 comes after the thread's earlier ones (R223). -/
def threadOrdered (c q : Nat) (r : State × Except Stop Xlated) : State × Except Stop Xlated :=
  match r.2 with
  | .ok x => if x.pte.cpol = 2 then (flushUncached r.1 c q, r.2) else r
  | .error _ => r

/-- The checks of an access of n aligned bytes. -/
def threadAccess (s : State) (c q : Nat) (va : DWord) (n : Nat) (need : Need) (kind : Nat) :
    State × Except Stop Xlated :=
  let tx := (s.thread c q).tx.isSome
  threadOrdered c q (threadChecked tx (checkAligned s (s.agent c) va n need kind tx))

/-- The checks of a typed access, which touches the runs of bytes that its page makes it touch. -/
def threadSpans (s : State) (c q : Nat) (va : DWord) (spans : Pte → Nat → List (Nat × Nat)) (need : Need) (kind : Nat) :
    State × Except Stop Xlated :=
  let tx := (s.thread c q).tx.isSome
  threadOrdered c q (threadChecked tx (checkSpans s (s.agent c) va spans need kind tx))

/-- A store or RED posted to another package; a lost member sets the release latch at once. -/
def post (s : State) (c q : Nat) (x : Xlated) (va : DWord) (pa : Nat) (bs : List Byte) (op : Option (Nat × Ty)) : State :=
  if s.live.contains (paPkg pa) then
    s.modThread c q (fun t => { t with
      posted := t.posted ++ [⟨pa, bs, op, va, (s.block c).ctx, x.pte.g, x.pte.cpol == 2, false⟩] })
  else setLatch s c q (paPkg pa)

/-- Every sector that n bytes touch is valid in the core's L1 or in a foreign way of its cohort. -/
def cachedRemote (s : State) (x : Xlated) (c pa n : Nat) : Bool :=
  x.pte.cpol == 0 && (sectorsOf pa n).all (fun k => (s.l1Sector c k).any (fun x => x.valid == BitVec.allOnes 32) ||
    s.foreignWays.any (fun f => f.1 == cohortOf c && f.2.1 == k))

/-! ## Plain reads and writes -/

/-- Bytes read by a thread outside a transaction, with their poison (R200, R216, R291). What another package refuses to
give enters no cache (R314). A read past L1 leaves the thread's core no older copy, through whatever page it came there
(R214). -/
def plainRead (s : State) (c q : Nat) (x : Xlated) (pa n : Nat) : State × List Byte × Bool :=
  let ctx := (s.block c).ctx
  let s := flushTouching s c q pa n
  if paTier pa = 3 ∨ x.pte.cpol ≠ 0 then
    let a := agentRead s ctx { x with pa := pa } n
    (dropCopies a.1 c pa n, a.2)
  else
    let r := if cachedRemote s x c pa n then (false, s) else remoteRefused s ctx pa 0
    if r.1 then (r.2, List.replicate n 0, true)
    else
      let l := l1Load r.2 c pa n x.pte.grain
      (l.1, l.2.1, l.2.2 || (s.remote pa && !s.live.contains (paPkg pa)))

/-- Another package gives a thread's read no answer: it is lost, or refuses what neither L1 nor a foreign way holds
(R291, R314). -/
def readDenied (s : State) (c q : Nat) (x : Xlated) (pa n : Nat) : Bool :=
  let s := flushTouching s c q pa n
  (s.remote pa && !s.live.contains (paPkg pa)) ||
    (!cachedRemote s x c pa n && (remoteRefused s (s.block c).ctx pa 0).1)

/-- A slice answers a read: it is not of a control register, no L1 answers it, and no package denies it (R195). -/
def sliceAnswers (s : State) (c q : Nat) (x : Xlated) (pa n : Nat) : Bool :=
  paTier pa != 3 && !(x.pte.cpol == 0 && l1Hit s c pa n) && !readDenied s c q x pa n

/-- Bytes written by a thread outside a transaction (R182, R200, R227). -/
def plainWrite (s : State) (c q : Nat) (x : Xlated) (va : DWord) (pa : Nat) (bs : List Byte) : State :=
  if s.remote pa then post s c q x va pa bs none
  else if paTier pa = 3 then agentT3Write s (s.block c).ctx (paOff pa) bs
  else if x.pte.cpol = 0 then l1Store s c pa x.pte.grain bs (threadWriter c q)
  else sliceAnswer ((agentWrite s (s.block c).ctx (some c) { x with pa := pa } bs 1 (threadWriter c q)).1) c q

/-! ## Transactional reads and writes (R242) -/

def txOf (s : State) (c q : Nat) : Tx :=
  ((s.thread c q).tx).getD ⟨0, 0, 0, 0, 0, none, 0, [], []⟩

def putTx (s : State) (c q : Nat) (tx : Tx) : State := s.modThread c q (fun t => { t with tx := some tx })

/-- One sector read: the bytes from `off` up, out of the write and read entries, logging a read entry where bytes are
missing. What it takes from a poisoned entry aborts (R286). -/
def txReadSector (s : State) (c q : Nat) (x : Xlated) (k off n : Nat) : State × Except (Nat × Nat) (List Byte) :=
  let tx := txOf s c q
  let w := tx.writes.find? (fun e => e.sector == k)
  let mask : BitVec 32 := (w.map (fun e => e.mask)).getD 0
  let wdata : List Byte := (w.map (fun e => sectorBytes e.data)).getD []
  let overlay := fun (base : List Byte) =>
    ((List.range n).map (fun i => if mask.getLsbD (off + i) then wdata.getD (off + i) 0 else base.getD (off + i) 0))
  if w.any (fun e => e.poison) && maskRange off n &&& mask != 0 then (s, .error (txPoison, cPoison))
  else if maskRange off n &&& ~~~mask = 0 then (s, .ok (overlay []))
  else match tx.reads.find? (fun e => e.sector == k) with
    | some e => (s, if e.poison then .error (txPoison, cPoison) else .ok (overlay (sectorBytes e.data)))
    | none =>
      if 24 ≤ tx.reads.length then (s, .error (txReadFull, 0))
      else
        let r := plainRead s c q x (32 * k) 32
        if r.2.2 then (r.1, .error (txPoison, cPoison))
        else (putTx r.1 c q { tx with reads := tx.reads ++ [⟨k, x.pte.grain, sectorOfBytes r.2.1, false⟩] }, .ok (overlay r.2.1))

/-- A slice answers a transactional read: of some sector that the log does not hold (R195, R242). -/
def txSliceAnswers (s : State) (c q : Nat) (x : Xlated) (pa n : Nat) : Bool :=
  let tx := txOf s c q
  (sectorsOf pa n).any (fun k =>
    let lo := Nat.max pa (32 * k)
    let hi := Nat.min (pa + n) (32 * k + 32)
    let mask : BitVec 32 := ((tx.writes.find? (fun e => e.sector == k)).map (fun e => e.mask)).getD 0
    maskRange (lo - 32 * k) (hi - lo) &&& ~~~mask != 0 && !tx.reads.any (fun e => e.sector == k) &&
      sliceAnswers s c q x (32 * k) 32)

/-- The same in or out of a transaction. -/
def readAnswers (s : State) (c q : Nat) (x : Xlated) (pa n : Nat) : Bool :=
  if (s.thread c q).tx.isSome then txSliceAnswers s c q x pa n else sliceAnswers s c q x pa n

/-- Bytes read in a transaction. -/
def txRead (s : State) (c q : Nat) (x : Xlated) (pa n : Nat) : State × Except (Nat × Nat) (List Byte) :=
  (sectorsOf pa n).foldl (fun acc k =>
    match acc.2 with
    | .error e => (acc.1, .error e)
    | .ok bs =>
      let lo := Nat.max pa (32 * k)
      let hi := Nat.min (pa + n) (32 * k + 32)
      let r := txReadSector acc.1 c q x k (lo - 32 * k) (hi - lo)
      match r.2 with
      | .error e => (r.1, .error e)
      | .ok b => (r.1, .ok (bs ++ b))) (s, .ok [])

/-- Bytes written in a transaction: into the write entry of each sector. -/
def txWrite (s : State) (c q : Nat) (x : Xlated) (pa : Nat) (bs : List Byte) : State × Except (Nat × Nat) Unit :=
  (sectorsOf pa bs.length).foldl (fun acc k =>
    match acc.2 with
    | .error e => (acc.1, .error e)
    | .ok _ =>
      let tx := txOf acc.1 c q
      let p := sectorPart pa bs k
      let m := maskRange p.1 p.2.length
      if tx.writes.any (fun e => e.sector == k) then
        (putTx acc.1 c q { tx with writes := tx.writes.map (fun e =>
          if e.sector == k then { e with
            mask := e.mask ||| m, data := sectorPut e.data p.1 p.2, poison := e.poison && p.2.length != 32 } else e) },
          .ok ())
      else if 12 ≤ tx.writes.length then (acc.1, .error (txWriteFull, 0))
      else
        (putTx acc.1 c q { tx with writes := tx.writes ++ [⟨k, x.pte.grain, m, sectorPut 0 p.1 p.2, false⟩] }, .ok ()))
    (s, .ok ())

/-! ## A thread's reads and writes, in or out of a transaction -/

def readBytesOf (s : State) (c q : Nat) (x : Xlated) (pa n : Nat) : State × Except Stop (List Byte × Bool) :=
  if (s.thread c q).tx.isSome then
    let r := txRead s c q x pa n
    match r.2 with
    | .error e => (r.1, .error (.abort e.1 e.2))
    | .ok b => (r.1, .ok (b, false))
  else
    let r := plainRead s c q x pa n
    (r.1, .ok (r.2.1, r.2.2))

def writeBytesOf (s : State) (c q : Nat) (x : Xlated) (va : DWord) (pa : Nat) (bs : List Byte) : State × Option Stop :=
  if (s.thread c q).tx.isSome then
    let r := txWrite s c q x pa bs
    match r.2 with
    | .error e => (r.1, some (.abort e.1 e.2))
    | .ok _ => (r.1, none)
  else (plainWrite s c q x va pa bs, none)

/-! ## Release and acquire (R225, R226) -/

/-- The release order codes: .REL, .AR, .SC; and the acquire ones: .ACQ, .AR, .SC (R217). -/
def orderReleases (o : Nat) : Bool := o == 2 || o == 3 || o == 4
def orderAcquires (o : Nat) : Bool := o == 1 || o == 3 || o == 4

/-- A sector lies in one of the spans. -/
def inSpans (spans : List (Nat × Nat)) (k : Nat) : Bool := spans.any (fun r => r.1 < 32 * k + 32 && 32 * k < r.2)

/-- The sectors that a release record covers. -/
def ReleaseRec.covers (r : ReleaseRec) (k : Nat) : Bool := r.range.all (fun l => inSpans l k)

/-- A core has dirty bytes, in its L1 or moved sideways from it, or deltas, in a sector that passes a test. -/
def State.owes (s : State) (c : Nat) (p : Nat → Bool) : Bool :=
  s.cores.any (fun r => r.sectors.any (fun x =>
    x.dirty != 0 && p x.sector && (if r.core = c then x.foreign.isNone else x.foreign == some c))) ||
  (s.coreRec c).updates.any (fun u => u.deltas.any (fun d => p (d.addr / 32)))

/-- The cores that the records passing a test name are drained: of their L1s, their victims and their update-only
regions, what the record covers of a range (R225, R226). A record goes unless it covers something outside the range that
its core still holds. -/
def drainRecords (s : State) (p : ReleaseRec → Bool) (range : Nat → Bool := fun _ => true) : State :=
  let s' := (s.releases.filter (fun r => p r)).foldl (fun s r =>
    drainCore s r.core (fun k => range k && r.covers k)) s
  { s' with releases := s'.releases.filter (fun r => !p r || s'.owes r.core (fun k => !range k && r.covers k)) }

/-- What a release does before its write (R225). From team scope on, the thread's posted writes reach their homes, which
alone makes them visible to others: at pod scope and wider all of them, else those in the range. A lazy release drains
nothing yet. `range` confines a range release. What the thread has stored of code stands from here on for every later
launch (R330). -/
def releaseActions (s : State) (c q scope : Nat) (eager : Bool) (range : Nat → Bool := fun _ => true) : State :=
  if scope = 0 then s
  else
    let s := noteRelease (flushIf s c q (fun e => 5 ≤ scope || e.touches range)) (threadWriter c q)
    if scope ≤ 2 || (scope ≤ 4 && !eager) then s
    else
      let s := drainCore s c range
      if 6 ≤ scope then borrowWriteBack s range else s

/-- The slice that keeps the record of a release write: its home's; of another package, told apart by its number. -/
def recordSlice (s : State) (pa : Nat) : Nat :=
  if s.remote pa then 512 * (1 + paPkg pa) + paOff pa / 512 % 512 else s.sliceOf pa

/-- The release record that a lazy release leaves at the home of its write; a full slice resolves its oldest (R187).
`range`: the spans of a range release. -/
def leaveRecord (s : State) (c scope order pa : Nat) (range : Option (List (Nat × Nat)) := none) : State :=
  if (scope == 3 || scope == 4) && order != 4 then
    let sl := recordSlice s pa
    let own := s.releases.filter (fun r => r.slice == sl)
    let s := match (if 64 ≤ own.length then own.head? else none) with
      | some old => drainRecords s (fun r => r == old)
      | none => s
    { s with releases := s.releases ++ [⟨sl, pa, c, range⟩] }
  else s

/-- What an acquire does after its read (R225): the drains that its home orders, then self-invalidation, both confined
to `range`. `sync` picks the records it synchronises with. -/
def acquireActions (s : State) (c scope : Nat) (sync : ReleaseRec → Bool) (range : Nat → Bool := fun _ => true) :
    State :=
  if scope ≤ 2 then s
  else
    let s := drainRecords s (fun r => r.core != c && sync r) range
    let s := selfInvalidate s c (5 ≤ scope) range
    let s := if 5 ≤ scope then dropForeign s c range else s
    if 6 ≤ scope then dropBorrowed s range else s

/-- A release of pod scope or wider by a thread whose latch is set raises RELEASE_FAILED, which clears the latch
(R292). -/
def releaseFails (s : State) (c q scope : Nat) (va : DWord) (pa : Nat) : Option Trap :=
  (if 5 ≤ scope then (s.thread c q).rfLatch else none).map (fun k => Trap.at cReleaseFailed k 7 va pa)

/-- The leaves through which a context reaches a page now, or has reached it: that of the tables as they stand, and
those of earlier translations, which accesses made before or after may have used (R205, R228; DESIGN CHOICE, log entry
83). -/
def pageLeaves (s : State) (ag : Agent) (page : Nat) : List (Pte × Nat) :=
  (match (walkFrom s page 3 1 ag.table).2 with
    | .leaf e level _ => [(e, level)]
    | .fail _ _ => []) ++
  (s.leaves.filter (fun t => t.covers ag.ctx page)).map (fun t => (t.pte, t.level))

/-- The physical spans that a virtual byte range covers, widened to whole grains (R225, R228, R229). -/
def rangeSpans (s : State) (ag : Agent) (base len : Nat) : List (Nat × Nat) :=
  let hi := Nat.min (base + len) (2 ^ 52)
  if hi ≤ base then []
  else (List.range ((hi - 1) / 65536 - base / 65536 + 1)).flatMap (fun i =>
    let page := (base / 65536 + i) * 65536
    (pageLeaves s ag page).map (fun l =>
      let sh := levelShift l.2
      let pa := l.1.ppn * 2 ^ 16 / 2 ^ sh * 2 ^ sh + page % 2 ^ sh
      let g := grainBytes l.1.grain
      let lo := pa + (Nat.max base page - page)
      let up := pa + (Nat.min hi (page + 65536) - page)
      (lo / g * g, (up + g - 1) / g * g)))

end Sys2Proof.Machine
end

