-- ==== Sys2Proof/Machine/Typed.lean ====
section
/-! DEFINITION. Typed pages: the formats and their layout (R108, R110 to R112), the decode of block-scaled elements
(R113, R114), the encoding of typed stores (R479), and bound checks (R147 to R149). -/

namespace Sys2Proof.Machine

/-! ## Formats (R110) -/

/-- The scale that a group carries (R108). -/
inductive ScaleKind where
  | none | e8m0 | u5m3 | fp16 | quant
  deriving DecidableEq, Repr

/-- A typed page format: its element type, group size, metadata bytes per group, scale. -/
structure PageFmt where
  ty : Ty
  ebits : Nat
  group : Nat
  recBytes : Nat
  scale : ScaleKind
  deriving DecidableEq, Repr

/-- The format of a legal FMT and GEO pair with elements a typed access can name; RAW, RES and reserved pairs have
none. -/
def pageFmt (fmt geo : Nat) : Option PageFmt :=
  let simple := fun (t : Ty) => if geo = 0 then some (⟨t, t.bits, 1, 0, .none⟩ : PageFmt) else none
  let scaled := fun (t : Ty) (g m : Nat) (k : ScaleKind) => if geo = 0 then some (⟨t, t.bits, g, m, k⟩ : PageFmt) else none
  match fmt with
  | 0x01 => simple .i8
  | 0x02 => simple .i16
  | 0x03 => simple .i32
  | 0x04 => simple .i64
  | 0x08 => simple .f32
  | 0x09 => simple .f16
  | 0x0A => simple .bf16
  | 0x0B => simple .e4m3
  | 0x0C => simple .e5m2
  | 0x10 => scaled .e4m3 32 1 .e8m0
  | 0x11 => scaled .e5m2 32 1 .e8m0
  | 0x12 => scaled .e2m1 32 1 .e8m0
  | 0x13 => scaled .e2m1 16 1 .u5m3
  | 0x14 => scaled .e5m2 32 2 .fp16
  | 0x18 => if geo ≤ 2 then some ⟨.i8, 4, 32 * 2 ^ geo, 4, .quant⟩ else none
  | 0x19 => if geo ≤ 2 then some ⟨.i8, 8, 32 * 2 ^ geo, 4, .quant⟩ else none
  | _ => none

/-- The data area of a 64 KiB unit (R111). -/
def PageFmt.dataEnd (f : PageFmt) : Nat :=
  if f.recBytes = 0 then 65536
  else
    let u := f.group * f.ebits / 8 + f.recBytes
    64 * (65536 / (64 * u)) * f.group * f.ebits / 8

/-- The offset of an element's scale record (R111). -/
def PageFmt.metaAddr (f : PageFmt) (i : Nat) : Nat := f.dataEnd + f.recBytes * (i / f.group)

/-- The raw code of element i, given the data bytes from byte `base` of the unit. -/
def PageFmt.code (f : PageFmt) (base : Nat) (bs : List Byte) (i : Nat) : Nat :=
  if f.ebits = 4 then
    let b := (bs.getD (i / 2 - base) 0).toNat
    if i % 2 = 0 then b % 16 else b / 16
  else leNat ((bs.drop (i * f.ebits / 8 - base)).take (f.ebits / 8))

/-- The value of a group's scale; a NaN-group scale is a NaN (R108). -/
def scaleValue (k : ScaleKind) (rec : Nat) : FVal :=
  match k with
  | .none => .fin false 1 0
  | .e8m0 => if rec % 256 = 255 then .nan else .fin false 1 ((rec % 256 : Nat) - 127)
  | .u5m3 =>
    let b := rec % 256
    let e := b / 8
    if b = 255 then .nan
    else if e = 0 then (if b = 0 then .zero false else .fin false (b % 8) (-17))
    else .fin false (8 + b % 8) ((e : Int) - 18)
  | .fp16 | .quant => fmtF16.decode (rec % 65536)

/-- The exact value of an integer. -/
def intFVal (x : Int) : FVal := if x = 0 then .zero false else .fin (x < 0) x.natAbs 0

/-- The integer q − z of a quantised element (R114). -/
def quantInt (f : PageFmt) (code rec : Nat) : Int :=
  (if f.ebits = 4 then (code : Int) else tyValue .i8 code) - tyValue .i8 (rec / 65536)

/-- The element value before its scale. -/
def PageFmt.element (f : PageFmt) (code rec : Nat) : FVal :=
  if f.scale = .quant then intFVal (quantInt f code rec)
  else if f.ty.isInt then intFVal (tyValue f.ty code)
  else (fmtOf f.ty).decode code

/-- A decoded element: its exact value, and whether the decode is invalid (R114). -/
def PageFmt.decoded (f : PageFmt) (code rec : Nat) : FVal × Bool :=
  if f.scale = .none then (f.element code rec, false) else fProd (f.element code rec) (scaleValue f.scale rec)

/-! ## Typed loads (R113, R418) -/

/-- FORMAT for a lane type: I32 lanes take integer and quantised pages only; I64 takes none. -/
def laneOk (f : PageFmt) (lane : Nat) : Bool :=
  f.ty != .i64 && (lane != 2 || f.scale == .quant || f.ty.isInt)

/-- An element converted to a lane: FP32 (0), BF16 (1) or I32 (2), rounded once in RNE. -/
def laneValue (f : PageFmt) (lane code rec : Nat) : Nat × Flags :=
  if lane = 2 then
    (tyEncode .i32 (if f.scale = .quant then quantInt f code rec else tyValue f.ty code), 0)
  else if f.scale = .none ∧ (lane = 0 ∧ f.ty = .f32 ∨ lane = 1 ∧ f.ty = .bf16) then (code, 0)
  else
    let fm := if lane = 0 then fmtF32 else fmtBF16
    if f.scale = .none ∧ f.ty.isInt then intToFloat fm .rne false (tyValue f.ty code)
    else
      let d := f.decoded code rec
      let r := fm.encode .rne false d.1
      (r.1, if d.2 then r.2 ||| Flags.iv else r.2)

/-- The elements that a typed access names: first index, count (R418). -/
def typedFirst (f : PageFmt) (o : Nat) : Nat := 8 * o / f.ebits
def typedCount (size lane : Nat) : Nat := (if size = 4 then 4 else if size = 3 then 2 else 1) * (if lane = 1 then 2 else 1)
def typedBytes (f : PageFmt) (count : Nat) : Nat := (count * f.ebits + 7) / 8

/-- Step 9 of R208 for a typed access at offset o: the fault, if any. -/
def typedFault (e : Pte) (fm : Option PageFmt) (ok : PageFmt → Bool) (o count kind : Nat) (va : DWord) (pa : Nat) :
    Option Trap :=
  let bad := Trap.at cFormat (e.fmt + 2 ^ 8 * e.geo) kind va pa
  match fm with
  | none => some bad
  | some f =>
    let w := Nat.max 1 (f.ebits / 8)
    if !ok f then some bad
    else if va.toNat % w ≠ 0 then some (Trap.at cMisaligned w kind va pa)
    else if f.dataEnd < o + typedBytes f count then some bad
    else none

/-- Values packed into registers: one per register, or two halves in .TB (R418). -/
def packLanes (lane : Nat) : List Nat → Nat
  | [] => 0
  | x :: r => x + 2 ^ (if lane = 1 then 16 else 32) * packLanes lane r

/-! ## Typed stores (R479) -/

def storeFmtOk (f : PageFmt) : Bool := f.scale == .none

/-- A lane encoded into an element. -/
def encodeLane (f : PageFmt) (lane v : Nat) : Nat × Flags :=
  if lane = 2 then
    if f.ty.isInt then ((tyValue .i32 v % (2 ^ f.ebits : Int)).toNat, 0)
    else intToFloat (fmtOf f.ty) .rne false (tyValue .i32 v)
  else
    let fm := if lane = 0 then fmtF32 else fmtBF16
    if f.ty.isInt then
      let r := floatToInt f.ty .rne (fm.decode v)
      ((r.1 % (2 ^ f.ebits : Int)).toNat, r.2)
    else if lane = 0 ∧ f.ty = .f32 ∨ lane = 1 ∧ f.ty = .bf16 then
      (if (fm.decode v).isNan then fm.qnan else v, 0)
    else (fmtOf f.ty).encode .rne false (fm.decode v)

/-! ## The bound table (R147 to R150) -/

def bndEnabled (s : State) : Bool := s.regs.bndBase.getLsbD 0
def bndAddr (s : State) (n : Nat) : Nat := s.regs.bndBase.toNat / 65536 * 65536 + 16 * n

def bndMax (e : BitVec 128) : Nat := bits e.toNat 127 96
def bndMin (e : BitVec 128) : Nat := bits e.toNat 95 64
def bndV (e : BitVec 128) : Bool := e.getLsbD 31
def bndPol (e : BitVec 128) : Nat := bits e.toNat 30 29
def bndNan (e : BitVec 128) : Bool := e.getLsbD 28
def bndInt (e : BitVec 128) : Bool := e.getLsbD 27

/-- What a check says of a value: it passes, is kept (FLAG), is clamped to MAXV or MINV, or traps. -/
inductive Verdict where
  | pass
  | flag
  | clamp (toMax : Bool)
  | trap
  deriving DecidableEq, Repr

/-- The bounds of an entry as data. -/
def bndValue (ints : Bool) (v : Nat) : FVal := if ints then intFVal (tyValue .i32 v) else fmtF32.decode v

/-- One value against an entry with V = 1 (R148). -/
def judge (e : BitVec 128) (ints : Bool) (v : FVal) : Verdict :=
  let lo := bndValue ints (bndMin e)
  let hi := bndValue ints (bndMax e)
  let below := !lo.isNan && fCompare v lo < 0
  let above := !hi.isNan && 0 < fCompare v hi
  if v.isNan then (if bndNan e then .trap else .pass)
  else if !below && !above then .pass
  else match bndPol e with
    | 0 => .flag
    | 1 => .clamp (above || (!hi.isNan && 0 < fCompare lo hi))
    | _ => .trap

/-- The bound that a clamped value takes. -/
def clampTarget (e : BitVec 128) (ints toMax : Bool) : FVal := bndValue ints (if toMax then bndMax e else bndMin e)

/-- The image of an entry as a cohort sees it, cached with no hits counted yet (R147). -/
def bndFetch (s : State) (co n : Nat) : State × BitVec 128 :=
  match s.bounds.find? (fun b => b.cohort == co && b.entry == n) with
  | some b => (s, b.image)
  | none =>
    let r := physRead s (bndAddr s n) 16
    let e := BitVec.ofNat 128 r.2.1
    ({ r.1 with bounds := r.1.bounds ++ [⟨co, n, e, 0⟩] }, e)

/-- A hit counted in a cohort's cache. -/
def countHit (s : State) (co n : Nat) : State :=
  { s with bounds := s.bounds.map (fun b => if b.cohort == co && b.entry == n then { b with hits := b.hits + 1 } else b) }

/-- A check of one value against entry n: the verdict, the entry, and the state with the hit counted. -/
def boundCheck (s : State) (co n : Nat) (intPage : Bool) (v : FVal) : State × Verdict × BitVec 128 :=
  if n = 0 || !bndEnabled s then (s, .pass, 0)
  else
    let r := bndFetch s co n
    if !bndV r.2 then (r.1, .pass, r.2)
    else
      let j := judge r.2 (intPage && bndInt r.2) v
      (if j = .pass then r.1 else countHit r.1 co n, j, r.2)

/-- EXTRA of BOUND (R272). -/
def boundExtra (n lane idx : Nat) : Nat := n + lane * 2 ^ 16 + idx * 2 ^ 24

/-- The code that an element of a page takes when clamped (R148). An FP32 bound outside an integer element's range
gives the type's least or greatest value (R122); for an integer bound (INT = 1) outside it the manual gives none, a
free value (log entry 7). Of several codes of a block-scaled page that decode to the same value, the lowest is taken
(DESIGN CHOICE, log entry 52: R148 does not say). -/
def clampCode (s : State) (f : PageFmt) (e : BitVec 128) (toMax : Bool) (code rec : Nat) : Nat :=
  let ints := f.ty.isInt && bndInt e && f.scale == .none
  let t := clampTarget e ints toMax
  let rm : Rnd := if toMax then .rd else .ru
  if f.scale = .none then
    if f.ty.isInt then
      let x : Int := if ints then tyValue .i32 (if toMax then bndMax e else bndMin e) else (floatToInt f.ty rm t).1
      if tyMin f.ty ≤ x ∧ x ≤ tyMax f.ty then (x % (2 ^ f.ebits : Int)).toNat
      else (Config.freeWord s.freeCtr).toNat % 2 ^ f.ebits
    else ((fmtOf f.ty).encode rm false t).1
  else
    let lo := bndValue false (bndMin e)
    let hi := bndValue false (bndMax e)
    let ok := fun (v : FVal) => !v.isNan && (hi.isNan || fCompare v hi ≤ 0) && (lo.isNan || 0 ≤ fCompare v lo)
    let cands := (List.range (2 ^ f.ebits)).filter (fun k => ok (f.decoded k rec).1)
    cands.foldl (fun best k =>
      if !ok (f.decoded best rec).1 then k
      else
        let d := fCompare (f.decoded k rec).1 (f.decoded best rec).1
        if (if toMax then 0 < d else d < 0) then k else best) code

/-- Elements checked in order, from index `idx`: the codes to write, or the index of the first TRAP hit. A store checks
all of its elements, and every hit counts (`all`); a command stops at a TRAP hit (R148, R149). -/
def boundCodes (s : State) (co n : Nat) (f : PageFmt) (all : Bool) (idx : Nat) :
    List (Nat × Nat) → State × Except Nat (List Nat)
  | [] => (s, .ok [])
  | (code, rec) :: r =>
    let b := boundCheck s co n (f.ty.isInt && f.scale == .none) (f.decoded code rec).1
    match b.2.1 with
    | .trap => (if all then (boundCodes b.1 co n f all (idx + 1) r).1 else b.1, .error idx)
    | .clamp m =>
      let k := clampCode b.1 f b.2.2 m code rec
      let t := boundCodes { b.1 with freeCtr := b.1.freeCtr + 1 } co n f all (idx + 1) r
      (t.1, t.2.map (fun ks => k :: ks))
    | _ =>
      let t := boundCodes b.1 co n f all (idx + 1) r
      (t.1, t.2.map (fun ks => code :: ks))

/-- Codes laid out as bytes; two 4-bit codes share a byte. -/
def codeBytes (f : PageFmt) : List Nat → List Byte
  | [] => []
  | x :: r => leBytes x (f.ebits / 8) ++ codeBytes f r

end Sys2Proof.Machine
end

