-- ==== Sys2Proof/Machine/Data.lean ====
section
/-! DEFINITION. Class 5: loads and stores (R415 to R420, R477 to R480). TLD stands with the matrix engine. -/

namespace Sys2Proof.Machine

/-- Bytes of a SIZE (R341). -/
def sizeBytes (n : Nat) : Nat := 2 ^ n

/-- The address of a global access: a pair with a signed byte displacement, modulo 2^64 (R335). -/
def globalAddr (s : State) (c q : Nat) (w : IForm) : DWord := readPair s c q w.a + w.imm.signExtend 64

/-- An untyped value: little-endian, extended to 32 bits at SIZE 0 and 1 (R416). -/
def loadedValue (w : IForm) (bs : List Byte) : Nat :=
  let v := leNat bs
  if w.sx then (tyValue (if w.size = 0 then .i8 else .i16) v % (2 ^ 32 : Int)).toNat else v

/-- A load's result enters the pending-result buffer under its tag (R73). -/
def loadResult (s : State) (c q : Nat) (w : IForm) (v : Nat) (f : Flags) (poison : Option Nat) (addr : DWord)
    (kind phys : Nat) (slice : Bool) : State :=
  let t := s.thread c q
  allocTag s c q ⟨w.ctl.alloc.toNat, splitValue (dstRegs t w.d w.dataRegs) v, none, f, false, poison, none, t.pc, addr,
    kind, w.d.code, w.dataRegs - 1, phys, slice⟩

/-- A false guard allocates an empty result (R75). -/
def loadSkip (w : IForm) (c q : Nat) (s : State) : Eff :=
  .done (allocTag s c q (emptyResult w.ctl.alloc.toNat (s.thread c q).pc w.d w.dataRegs))

/-! ## LD -/

def ldUntyped (w : IForm) (c q : Nat) (s : State) : Eff :=
  let va := globalAddr s c q w
  let n := sizeBytes w.size
  let r := threadAccess s c q va n needR 1
  match r.2 with
  | .error x => x.eff r.1
  | .ok x =>
    let b := readBytesOf r.1 c q x x.pa n
    match b.2 with
    | .error e => e.eff b.1
    | .ok d => .done (loadResult b.1 c q w (loadedValue w d.1) 0 (if d.2 then some 0 else none) va 1 x.pa
        (readAnswers r.1 c q x x.pa n))

/-- The scale records of the groups that some elements lie in, read one after another: by group, whether any is
poisoned, whether a slice has answered for any. -/
def readScales (s : State) (c q : Nat) (x : Xlated) (unit : Nat) (f : PageFmt) (groups : List Nat) :
    State × Except Stop (List (Nat × Nat) × Bool × Bool) :=
  groups.foldl (fun acc g =>
    match acc.2 with
    | .error e => (acc.1, .error e)
    | .ok l =>
      let a := unit + f.dataEnd + f.recBytes * g
      let r := readBytesOf acc.1 c q x a f.recBytes
      match r.2 with
      | .error e => (r.1, .error e)
      | .ok b => (r.1, .ok (l.1 ++ [(g, leNat b.1)], l.2.1 || b.2, l.2.2 || readAnswers acc.1 c q x a f.recBytes)))
    (s, .ok ([], false, false))

/-- The groups of elements i to i + n − 1, none where the format has no metadata. -/
def groupsOf (f : PageFmt) (i n : Nat) : List Nat :=
  if f.recBytes = 0 then [] else (List.range ((i + n - 1) / f.group - i / f.group + 1)).map (i / f.group + ·)

def recordOf (l : List (Nat × Nat)) (g : Nat) : Nat := ((l.find? (fun r => r.1 == g)).map (·.2)).getD 0

/-- The runs of bytes that a typed access at a virtual address touches (R208 step 7): its elements and, where it decodes
them, their scale records; its first byte alone where the page has no format for it or they lie outside the data area,
where it raises FORMAT (R112). -/
def typedSpans (ok : PageFmt → Bool) (va : DWord) (count : Nat) (scales : Bool) (e : Pte) (pa : Nat) : List (Nat × Nat) :=
  let o := va.toNat % 65536
  match pageFmt e.fmt e.geo with
  | none => [(pa, 1)]
  | some f =>
    if !ok f || f.dataEnd < o + typedBytes f count then [(pa, 1)]
    else (pa, typedBytes f count) :: (if scales then (groupsOf f (typedFirst f o) count).map (fun g =>
      (pa - o + f.dataEnd + f.recBytes * g, f.recBytes)) else [])

def ldTyped (w : IForm) (c q : Nat) (s : State) : Eff :=
  let va := globalAddr s c q w
  let count := typedCount w.size w.lane
  let r := threadSpans s c q va (typedSpans (fun f => laneOk f w.lane) va count true) needR 1
  match r.2 with
  | .error x => x.eff r.1
  | .ok x =>
    let fm := pageFmt x.pte.fmt x.pte.geo
    let o := va.toNat % 65536
    match typedFault x.pte fm (fun f => laneOk f w.lane) o count 1 va x.pa, fm with
    | some t, _ => .trap r.1 t
    | none, none => .trap r.1 (Trap.at cFormat 0 1 va x.pa)
    | none, some f =>
      let i := typedFirst f o
      let b := readBytesOf r.1 c q x x.pa (typedBytes f count)
      match b.2 with
      | .error e => e.eff b.1
      | .ok d =>
        let g := readScales b.1 c q x (x.pa - o) f (groupsOf f i count)
        match g.2 with
        | .error e => e.eff g.1
        | .ok sc =>
          let vs := (List.range count).map (fun k =>
            laneValue f w.lane (f.code o d.1 (i + k)) (recordOf sc.1 ((i + k) / f.group)))
          let fl := vs.foldl (fun a v => a ||| v.2) (0 : Flags)
          .done (loadResult g.1 c q w (packLanes w.lane (vs.map (·.1))) fl (if d.2 || sc.2.1 then some 0 else none)
            va 1 x.pa (readAnswers r.1 c q x x.pa (typedBytes f count) || sc.2.2))

/-- LD (R417, R418). -/
def execLd (w : IForm) (s : State) : Out :=
  .next (issueWord (.ld w) (fun c q s => if w.typed then ldTyped w c q s else ldUntyped w c q s)
    (fun c q s => loadSkip w c q s) s)

/-! ## ST -/

/-- The whole elements that an untyped store of n bytes at offset o covers: first byte of the first, their number. -/
def coveredElements (f : PageFmt) (o n : Nat) : Nat × Nat :=
  let w := f.ebits / 8
  let lo := (o + w - 1) / w * w
  (lo, (o + n - lo) / w)

/-- The bound check of a store (R149): the bytes to write, or BOUND. -/
def storeBound (s : State) (c q : Nat) (x : Xlated) (f : PageFmt) (va : DWord) (bs : List Byte) (first count : Nat) :
    State × Except Trap (List Byte) :=
  let w := f.ebits / 8
  let o := va.toNat % 65536
  let codes := (List.range count).map (fun k => (leNat ((bs.drop (first - o + k * w)).take w), 0))
  let r := boundCodes s (cohortOf c) x.pte.bidx f true 0 codes
  match r.2 with
  | .error k => (r.1, .error (Trap.at cBound (boundExtra x.pte.bidx (laneOf q) k) 2 va x.pa))
  | .ok ks =>
    (r.1, .ok (bs.take (first - o) ++ codeBytes f ks ++ bs.drop (first - o + count * w)))

/-- Bytes checked and stored; the flags of a typed store are set when it issues. -/
def storeFinish (s : State) (c q : Nat) (x : Xlated) (va : DWord) (bs : List Byte) (f : Option PageFmt)
    (span : PageFmt → Nat × Nat) (fl : Flags) : Eff :=
  let r := match f with
    | some f => storeBound s c q x f va bs (span f).1 (span f).2
    | none => (s, .ok bs)
  match r.2 with
  | .error t => .trap r.1 t
  | .ok bs' =>
    let u := writeBytesOf r.1 c q x va x.pa bs'
    match u.2 with
    | some e => e.eff u.1
    | none => .done (if fl = 0 then u.1 else raiseFlags u.1 c q fl)

/-- A store needs W; in a transaction it needs R and W (R201). -/
def storeNeed (s : State) (c q : Nat) : Need := if (s.thread c q).tx.isSome then needRW else needW

def stUntyped (w : IForm) (c q : Nat) (s : State) : Eff :=
  let va := globalAddr s c q w
  let n := sizeBytes w.size
  let bs := leBytes (readSrc s c q w.d w.dataRegs) n
  let r := threadAccess s c q va n (storeNeed s c q) 2
  match r.2 with
  | .error x => x.eff r.1
  | .ok x =>
    let fm := if x.pte.bidx = 0 ∨ 0x0C < x.pte.fmt then none else pageFmt x.pte.fmt x.pte.geo
    storeFinish r.1 c q x va bs fm (fun f => coveredElements f (va.toNat % 65536) n) 0

/-- The lanes of a typed store's data (R418). -/
def storeLanes (w : IForm) (count v : Nat) : List Nat :=
  let b := if w.lane = 1 then 16 else 32
  (List.range count).map (fun k => v / 2 ^ (b * k) % 2 ^ b)

def stTyped (w : IForm) (c q : Nat) (s : State) : Eff :=
  let va := globalAddr s c q w
  let v := readSrc s c q w.d w.dataRegs
  let count := typedCount w.size w.lane
  let r := threadSpans s c q va (typedSpans storeFmtOk va count false) (storeNeed s c q) 2
  match r.2 with
  | .error x => x.eff r.1
  | .ok x =>
    let fm := pageFmt x.pte.fmt x.pte.geo
    let o := va.toNat % 65536
    match typedFault x.pte fm storeFmtOk o count 2 va x.pa, fm with
    | some t, _ => .trap r.1 t
    | none, none => .trap r.1 (Trap.at cFormat 0 2 va x.pa)
    | none, some f =>
      let es := (storeLanes w count v).map (encodeLane f w.lane)
      let fl := es.foldl (fun a e => a ||| e.2) (0 : Flags)
      storeFinish r.1 c q x va (codeBytes f (es.map (·.1))) (if x.pte.bidx = 0 then none else some f)
        (fun _ => (o, count)) fl

/-- ST (R478, R479). -/
def execSt (w : IForm) (s : State) : Out :=
  .next (issueWord (.st w) (fun c q s => if w.typed then stTyped w c q s else stUntyped w c q s) (fun _ _ s => .done s) s)

/-! ## The X-buffer and the W-buffer -/

/-- The checks of an X-buffer access of n bytes (R208 steps 1 to 3): the core and address, or the fault. -/
def xCheck (s : State) (c : Nat) (plc : Bool) (a disp : Word) (n align : Nat) : Except Trap (Nat × Nat) :=
  match placeWord s c plc a disp with
  | none => .error (Trap.at cPlace 0 5 ((if plc then (a &&& 0x1FFFFF#32) + disp else a + disp).setWidth 64))
  | some t =>
    let va : DWord := BitVec.ofNat 64 t.2
    if t.2 % align ≠ 0 then .error (Trap.at cMisaligned align 5 va)
    else if xBytes < t.2 + n then .error (Trap.at cPerm 5 5 va)
    else .ok t

/-- LDX (R420). A poisoned LDX, LDW or ATOMX of a transaction counts as read when its tag commits: the transaction
aborts then, if it is still open (DESIGN CHOICE, log entry 94: R243 and R286 do not say when). -/
def execLdx (w : IForm) (s : State) : Out :=
  .next (issueWord (.ldx w) (fun c q s =>
    let n := sizeBytes w.size
    match xCheck s c w.plc (readWord s c q w.a) w.imm n n with
    | .error t => .trap s t
    | .ok t => .done (loadResult s c q w (loadedValue w (xRead s t.1 t.2 n)) 0
        (if xPoisoned s t.1 t.2 n then some 1 else none) (BitVec.ofNat 64 t.2) 5 0 false))
    (fun c q s => loadSkip w c q s) s)

/-- STX (R480). -/
def execStx (w : IForm) (s : State) : Out :=
  .next (issueWord (.stx w) (fun c q s =>
    let n := sizeBytes w.size
    match xCheck s c w.plc (readWord s c q w.a) w.imm n n with
    | .error t => .trap s t
    | .ok t => .done (xWrite s t.1 t.2 (leBytes (readSrc s c q w.d w.dataRegs) n))) (fun _ _ s => .done s) s)

/-- LDW (R419): poison comes in units of 64 bytes; in a transaction as for LDX. -/
def execLdw (w : IForm) (s : State) : Out :=
  .next (issueWord (.ldw w) (fun c q s =>
    let n := sizeBytes w.size
    let a := (readWord s c q w.a + w.imm).toNat
    let va : DWord := BitVec.ofNat 64 a
    if a % n ≠ 0 then .trap s (Trap.at cMisaligned n 1 va)
    else if 0x300000 < a + n then .trap s (Trap.at cPerm 5 1 va)
    else
      let b := s.block c
      .done (loadResult s c q w (loadedValue w (readBytes b.wbuf a n)) 0
        (if b.wpoison.contains (a / 64) then some 1 else none) va 1 0 false))
    (fun c q s => loadSkip w c q s) s)

end Sys2Proof.Machine
end

