-- ==== Sys2Proof/Machine/Atomics.lean ====
section
/-! DEFINITION. Class 6: atomics, reductions, fences, flags and barriers (R364 to R372, R386, R406, R407, R459, R460,
R469, R470, R493, R494), and FLAG_WAIT_SATISFIED. -/

namespace Sys2Proof.Machine

/-- What an atomic access at the home answered: the old value, or why there is none (R286, R291, R314). -/
structure AtomicRead where
  old : Nat
  poison : Bool
  lost : Option Nat
  refused : Bool
  deriving DecidableEq, Repr

/-- Before an atomic access by a thread: its own and its party's posted writes to those bytes are performed, so that no
other access comes between the party's atomics (R367). -/
def flushParty (s : State) (c q pa n : Nat) : State :=
  let mates := match s.actor with
    | .party c' l => if c' = c then l.filter (· != q) else []
    | _ => []
  (q :: mates).foldl (fun s q => flushTouching s c q pa n) s

/-- One indivisible read at the home, the core's own copies dropped; past the slice for a page of CPOL 2 (R200). -/
def atomicRead (s : State) (c q : Nat) (x : Xlated) (n : Nat) : State × AtomicRead :=
  let pa := x.pa
  let s := flushParty s c q pa n
  if s.remote pa && !s.live.contains (paPkg pa) then (s, ⟨0, false, some (paPkg pa), false⟩)
  else
    let ctx := (s.block c).ctx
    let f := remoteRefused s ctx pa 2
    if paTier pa = 3 then (f.2, ⟨leNat (agentT3Read f.2 ctx (paOff pa) n), false, none, false⟩)
    else
      let r := if x.pte.cpol = 2 then uncachedRead f.2 pa n x.pte.grain else homeRead f.2 pa n x.pte.grain
      (dropCopies r.1 c pa n, ⟨leNat r.2.1, r.2.2 || f.1, none, f.1⟩)

/-- The write that follows in the same step, by the writer `who`. -/
def atomicWrite (s : State) (c : Nat) (x : Xlated) (n v who : Nat) : State :=
  if paTier x.pa = 3 then agentT3Write s (s.block c).ctx (paOff x.pa) (leBytes v n)
  else if x.pte.cpol = 2 then uncachedWrite s (some c) x.pa (leBytes v n) x.pte.grain who
  else homeWrite s (some c) x.pa (leBytes v n) x.pte.grain who

/-- The scope at which a thread's ATOM, CAS or ATOMX write is a release (R219, R220, R407): its own, or that of an
earlier fence; 0 for none. -/
def releaseScope (t : Thread) (w : FForm) : Nat := Nat.max (if orderReleases w.order then w.scope else 0) t.relFence

/-- The record of an ATOM or CAS write that is a lazy release, by its own order or by an earlier fence (R220, R226). -/
def leaveAtomicRecord (s : State) (c q : Nat) (w : FForm) (pa : Nat) : State :=
  if (s.thread c q).lazyFence then leaveRecord s c 4 2 pa
  else if orderReleases w.order then leaveRecord s c w.scope w.order pa else s

/-! ## ATOM and CAS -/

/-- The registers and bytes of an atomic. -/
def atomBytes (w : FForm) : Nat := w.ty.bits / 8

/-- An atomic's result under its tag; `slice` where a slice answers it (R195). -/
def atomResult (s : State) (c q : Nat) (w : FForm) (v : Nat) (poison lost : Option Nat) (addr : DWord)
    (kind phys : Nat) (slice : Bool) : State :=
  let t := s.thread c q
  allocTag s c q ⟨w.ctl.alloc.toNat, splitValue (dstRegs t w.d w.ty.regs) v, none, 0, false, poison, lost, t.pc, addr,
    kind, w.d.code, w.ty.regs - 1, phys, slice⟩

def atomSkip (w : FForm) (c q : Nat) (s : State) : Eff :=
  .done (allocTag s c q (emptyResult w.ctl.alloc.toNat (s.thread c q).pc w.d w.ty.regs))

/-- ATOM and CAS inside a transaction (R242): `new` is none where nothing is written. -/
def atomTx (w : FForm) (new : Nat → Option Nat) (c q : Nat) (s : State) (x : Xlated) (va : DWord) : Eff :=
  let r := txRead s c q x x.pa (atomBytes w)
  match r.2 with
  | .error e => .abort r.1 e.1 e.2
  | .ok bs =>
    let old := leNat bs
    let slice := txSliceAnswers s c q x x.pa (atomBytes w)
    match new old with
    | none => .done (atomResult r.1 c q w old none none va 3 x.pa slice)
    | some v =>
      let u := txWrite r.1 c q x x.pa (leBytes v (atomBytes w))
      match u.2 with
      | .error e => .abort u.1 e.1 e.2
      | .ok _ => .done (atomResult u.1 c q w old none none va 3 x.pa slice)

/-- ATOM and CAS (R366, R386). A CAS that fails writes nothing and is no release (R219). -/
def atomGlobal (w : FForm) (new : Nat → Option Nat) (c q : Nat) (s : State) : Eff :=
  let va := readPair s c q w.a
  let n := atomBytes w
  let r := threadAccess s c q va n needRW 3
  match r.2 with
  | .error x => x.eff r.1
  | .ok x =>
    if (r.1.thread c q).tx.isSome then atomTx w new c q r.1 x va
    else
      let s := if orderReleases w.order then releaseActions r.1 c q w.scope (w.order == 4) else r.1
      let a := atomicRead s c q x n
      let bad := a.2.poison || a.2.lost.isSome
      match (if !bad && (new a.2.old).isNone then none
             else releaseFails a.1 c q (releaseScope (a.1.thread c q) w) va x.pa) with
      | some f => .trap a.1 f
      | none =>
        let s := match (if bad then none else new a.2.old) with
          | some v =>
            leaveAtomicRecord (atomicWrite a.1 c x n v (threadWriter c q)) c q w x.pa
          | none => a.1
        let s := if orderAcquires w.order then
            acquireActions s c w.scope (fun r => r.addr / 8 == x.pa / 8) else s
        .done (atomResult s c q w a.2.old (if a.2.poison then some 0 else none) a.2.lost va 3 x.pa
          (paTier x.pa != 3 && a.2.lost.isNone && !a.2.refused))

/-- ATOM (R366). -/
def execAtom (w : FForm) (s : State) : Out :=
  .next (issueWord (.atom w) (fun c q s =>
    let b := readSrc s c q w.b w.ty.regs
    atomGlobal w (fun old => some (aopValue w.aop w.ty old b 0)) c q s) (fun c q s => atomSkip w c q s) s)

/-- CAS (R386): a failing one writes nothing. -/
def execCas (w : FForm) (s : State) : Out :=
  .next (issueWord (.cas w) (fun c q s =>
    let b := readSrc s c q w.b w.ty.regs
    let v := readSrc s c q w.c w.ty.regs
    atomGlobal w (fun old => if old = b then some v else none) c q s) (fun c q s => atomSkip w c q s) s)

/-! ## ATOMX -/

/-- The scope whose actions an ATOMX completes before its write: that of its own release, and package scope after a lazy
fence; 0 for none. -/
def xReleaseScope (t : Thread) (w : FForm) : Nat :=
  Nat.max (if orderReleases w.order then Nat.min w.scope 4 else 0) (if t.lazyFence then 4 else 0)

/-- ATOMX (R370). An X-buffer word has no home slice that could hold R226's record, so its release, and that of a lazy
fence before it, drains at once (DEDUCED, log entry 23), and its acquire side finds nothing left to drain. A release
fence before it may make its write a release at pod scope or wider (R220, R292, R407); a .CAS that fails is no release
(R219). Poison in a transaction is as for LDX (log entry 94). -/
def execAtomx (w : FForm) (s : State) : Out :=
  .next (issueWord (.atomx w) (fun c q s =>
    let n := atomBytes w
    let b := readSrc s c q w.b w.ty.regs
    let v := readSrc s c q w.c w.ty.regs
    match xCheck s c (w.sub.getLsbD 0) (readWord s c q w.a) 0 n n with
    | .error t => .trap s t
    | .ok t =>
      let sc := Nat.min w.scope 4
      let va : DWord := BitVec.ofNat 64 t.2
      let s := releaseActions s c q (xReleaseScope (s.thread c q) w) true
      let po := xPoisoned s t.1 t.2 n
      let old := leNat (xRead s t.1 t.2 n)
      match (if w.aop = 9 ∧ old ≠ b ∧ !po then none else releaseFails s c q (s.thread c q).relFence va 0) with
      | some f => .trap s f
      | none =>
        let s := if po then s else xWrite s t.1 t.2 (leBytes (aopValue w.aop w.ty old b v) n)
        let s := if orderAcquires w.order then acquireActions s c sc (fun _ => false) else s
        .done (atomResult s c q w old (if po then some 1 else none) none va 5 0 false))
    (fun c q s => atomSkip w c q s) s)

/-! ## RED -/

/-- A delta placed in an update-only region of a core (R184); one that is poisoned there takes none (R285). -/
def bufferDelta (s : State) (c : Nat) (d : Delta) : State :=
  let region := d.addr / 512
  let inRegion := fun (x : Delta) => x.addr / 512 == region
  let s := if (s.coreRec c).sectors.any (fun x => x.sector / 16 == region) then
      flushRegion s c region
    else s
  let mine := (s.coreRec c).updates.find? (fun u => u.region == region)
  let n := d.ty.bits / 8
  let clash := mine.any (fun u => u.deltas.any (fun x =>
    x.addr < d.addr + n && d.addr < x.addr + x.ty.bits / 8 && !(x.addr == d.addr && x.aop == d.aop && x.ty == d.ty)))
  let s := if clash then mergeUpdates s c inRegion else s
  let us := (s.coreRec c).updates
  if us.any (fun u => u.region == region) then
    s.modCore c (fun r => { r with updates := r.updates.map (fun u =>
      if u.region == region then
        { u with deltas := if u.deltas.any (fun x => x.addr == d.addr) then
            u.deltas.map (fun x => if x.addr == d.addr && !x.poison then
              { x with value := BitVec.ofNat 64 (aopValue d.aop d.ty x.value.toNat d.value.toNat 0) } else x)
          else u.deltas ++ [d] }
      else u) })
  else
    let s := if 256 ≤ us.length then
        mergeUpdates s c (fun x => some (x.addr / 512) == us.head?.map (·.region)) else s
    let s := makeRoom s c region
    s.modCore c (fun r => { r with updates := r.updates ++ [⟨region, [d]⟩] })

/-- A reduction performed at the home; a poisoned element takes none (R285). -/
def redAtHome (s : State) (c q : Nat) (x : Xlated) (aop : Nat) (ty : Ty) (b : Nat) : State :=
  let n := ty.bits / 8
  let a := atomicRead s c q x n
  let s := if a.2.poison || a.2.lost.isSome then a.1 else atomicWrite a.1 c x n (aopValue aop ty a.2.old b 0) (threadWriter c q)
  if paTier x.pa = 3 then s else sliceAnswer s c q

/-- RED (R460). -/
def execRed (w : FForm) (s : State) : Out :=
  .next (issueWord (.red w) (fun c q s =>
    let va := readPair s c q w.a
    let b := readSrc s c q w.b w.ty.regs
    let n := atomBytes w
    let rel := orderReleases w.order
    let r := threadAccess s c q va n needRW 3
    match r.2 with
    | .error x => x.eff r.1
    | .ok x =>
      let s := if rel then mergeUpdates (releaseActions r.1 c q w.scope false) c (fun _ => true) else r.1
      match (if rel then releaseFails s c q w.scope va x.pa else none) with
      | some f => .trap s f
      | none =>
        let record := fun (s : State) => if rel then leaveRecord s c w.scope w.order x.pa else s
        if s.remote x.pa then .done (record (post s c q x va x.pa (leBytes b n) (some (w.aop, w.ty))))
        else if rel || x.pte.cpol != 0 then .done (record (redAtHome s c q x w.aop w.ty b))
        else .done (bufferDelta s c ⟨x.pa, w.aop, w.ty, BitVec.ofNat 64 b, x.pte.grain, false⟩)) (fun _ _ s => .done s) s)

/-! ## FENCE -/

/-- FENCE (R407): the release actions of R225 at its scope are completed at the fence, at cohort and package scope those
of a lazy release, which leave the record to the thread's later atomic writes (R220, R226); .SC is eager. The acquire
drains every record that an earlier atomic read may have met. -/
def execFence (w : FForm) (s : State) : Out :=
  .next (issueWord (.fence w) (fun c q s =>
    let s := if orderReleases w.order then
        (releaseActions s c q w.scope (w.order == 4)).modThread c q (fun t => { t with
          relFence := Nat.max t.relFence w.scope
          lazyFence := t.lazyFence || ((w.scope == 3 || w.scope == 4) && w.order != 4) }) else s
    .done (if orderAcquires w.order then acquireActions s c w.scope (fun _ => true) else s)) (fun _ _ s => .done s) s)

/-! ## SETF -/

/-- The range quad: base and length (R469). -/
def rangeQuad (s : State) (c q : Nat) (o : Opnd) : Nat × Nat :=
  let v := readSrc s c q o 4
  (v % 2 ^ 64, v / 2 ^ 64 % 2 ^ 32)

/-- An atomic read whose answer goes under no tag, with its slice's congestion level (R195). -/
def flagRead (s : State) (c q : Nat) (x : Xlated) (n : Nat) : State × AtomicRead :=
  let a := atomicRead s c q x n
  if paTier x.pa = 3 || a.2.lost.isSome || a.2.refused then a else (sliceAnswer a.1 c q, a.2)

/-- SETF: a range release, at cohort and package scope a lazy one (R225, R226), then the flag write (R470). A poisoned
flag stops .ADD alone; where the target refuses the request there is no value to go by, and the model takes the refusal
of an atomic, which R314 states for results, as POISON (log entry 23). -/
def setf (w : FForm) (add : Bool) (c q : Nat) (s : State) : Eff :=
  let va := readPair s c q w.a
  let b := (readWord s c q w.b).toNat
  let rg := rangeQuad s c q w.c
  let r := threadAccess s c q va 4 needRW 3
  match r.2 with
  | .error x => x.eff r.1
  | .ok x =>
    let spans := rangeSpans r.1 (r.1.agent c) rg.1 rg.2
    let s := releaseActions r.1 c q w.scope false (inSpans spans)
    match releaseFails s c q w.scope va x.pa with
    | some f => .trap s f
    | none =>
      let a := flagRead s c q x 4
      match a.2.lost with
      | some k => .trap a.1 (Trap.at cPeerLost k 3 va x.pa)
      | none =>
        if a.2.refused || (a.2.poison && add) then .trap a.1 (Trap.at cPoison 0 3 va x.pa)
        else .done (leaveRecord (atomicWrite a.1 c x 4 (if add then (a.2.old + b) % 2 ^ 32 else b) (threadWriter c q)) c
          w.scope 2 x.pa (some spans))

/-- SETF.ST (R470). -/
def execSetfSt (w : FForm) (s : State) : Out :=
  .next (issueWord (.setfSt w) (fun c q s => setf w false c q s) (fun _ _ s => .done s) s)

/-- SETF.ADD (R470). -/
def execSetfAdd (w : FForm) (s : State) : Out :=
  .next (issueWord (.setfAdd w) (fun c q s => setf w true c q s) (fun _ _ s => .done s) s)

/-! ## WAITF and WAITW -/

/-- A flag wait's condition (R494); WAITW's is bit 63 of the word. -/
def flagHolds (cond : Nat) (v target : Nat) : Bool :=
  match cond with
  | 0 => target ≤ v
  | 1 => v == target
  | _ => v != target

/-- One atomic read of a waiting thread, which translates its address each time (R205): it goes on through its acquire,
holds, or faults. -/
def pollWait (wt : Wait) (c q : Nat) (s : State) : Eff :=
  let poll := fun (va : DWord) (n scope : Nat) (holds : Nat → Bool) (range : State → Nat → Bool) =>
    let r := threadAccess s c q va n needR 3
    match r.2 with
    | .error x => x.eff r.1
    | .ok x =>
      let a := flagRead r.1 c q x n
      if a.2.poison || a.2.lost.isSome then .trap a.1 (Trap.at cPoison 0 3 va x.pa)
      else if holds a.2.old then .done (acquireActions a.1 c scope (fun r => r.addr / 8 == x.pa / 8) (range a.1))
      else .hold (a.1.modThread c q (fun t => { t with wait := wt }))
  match wt with
  | .flag va cond target scope base len => poll va 4 scope (fun v => flagHolds cond v target.toNat)
      (fun s => inSpans (rangeSpans s (s.agent c) base len))
  | .word va scope => poll va 8 scope (fun v => bit v 63) (fun _ _ => true)
  | _ => .hold s

/-- WAITF (R494). -/
def execWaitf (w : FForm) (s : State) : Out :=
  .next (issueWord (.waitf w) (fun c q s =>
    let rg := rangeQuad s c q w.c
    pollWait (.flag (readPair s c q w.a) w.aop (readWord s c q w.b) w.scope rg.1 rg.2) c q s) (fun _ _ s => .done s) s)

/-- WAITW (R494). -/
def execWaitw (w : FForm) (s : State) : Out :=
  .next (issueWord (.waitw w) (fun c q s => pollWait (.word (readPair s c q w.a) w.scope) c q s)
    (fun _ _ s => .done s) s)

/-- FLAG_WAIT_SATISFIED (R494): a waiting thread reads its flag or word again; the read that finds the condition true
is its acquire read. -/
def execFlagWaitSatisfied (c q : Nat) (s : State) : Out :=
  let t := s.thread c q
  .next (match t.wait with
    | .flag _ _ _ _ _ _ | .word _ _ =>
      if t.live && t.susp == .none then
        finishIssue c q (pollWait t.wait c q (s.modThread c q (fun t => { t with wait := .none })))
      else s
    | _ => s)

/-! ## BAR -/

/-- The phase operand (R372). -/
def barPhase (s : State) (c q : Nat) (w : FForm) : Bool := (readWord s c q w.b).getLsbD 0

/-- An arrival by a thread, applied when every thread of the clock has issued (R232): first the thread's posted writes
reach their homes, which its block may read after the barrier (R234). -/
def barArrive (s : State) (c q n : Nat) (sync : Option Bool) : State :=
  (noteRelease (flushPosted s c q) (threadWriter c q)).modBlock c (fun b => { b with arrivals := b.arrivals ++ [(q, n, sync)] })

/-- BAR.ARV (R372). -/
def execBarArv (w : FForm) (s : State) : Out :=
  .next (issueWord (.barArv w) (fun c q s => .done (barArrive s c q w.a.code.toNat none)) (fun _ _ s => .done s) s)

/-- A thread waits while PHASE, sampled after every arrival of the clock, equals its phase (R372). -/
def barHold (s : State) (c q n : Nat) (ph : Bool) : State := s.modThread c q (fun t => { t with wait := .barrier n ph })

/-- BAR.WT (R372). -/
def execBarWt (w : FForm) (s : State) : Out :=
  .next (issueWord (.barWt w) (fun c q s => .hold (barHold s c q w.a.code.toNat (barPhase s c q w)))
    (fun _ _ s => .done s) s)

/-- BAR.SYNC (R372). -/
def execBarSync (w : FForm) (s : State) : Out :=
  .next (issueWord (.barSync w) (fun c q s =>
    let ph := barPhase s c q w
    .hold (barHold (barArrive s c q w.a.code.toNat (some ph)) c q w.a.code.toNat ph)) (fun _ _ s => .done s) s)

/-- A waiting thread goes on after its barrier word. -/
def passBarrier (s : State) (c q : Nat) : State :=
  completeWord (s.modThread c q (fun t => { t with wait := .none })) c q

/-- One queued arrival: one that completes its phase releases its own SYNC (R372). -/
def applyArrival (c : Nat) (s : State) (x : Nat × Nat × Option Bool) : State :=
  let done := (arriveWord (barrierWord s c x.2.1)).2
  let s := arrive s c x.2.1 false
  match x.2.2 with
  | some ph => if done && (s.thread c x.1).live && (s.thread c x.1).wait == .barrier x.2.1 ph then passBarrier s c x.1 else s
  | none => s

/-- The arrivals of a block's threads in this clock, in slot order (R232). -/
def settleArrivals (s : State) (c : Nat) : State :=
  let l := sortBy (fun (x y : Nat × Nat × Option Bool) => x.1 ≤ y.1) (s.block c).arrivals
  if l.isEmpty then s else (l.foldl (applyArrival c) s).modBlock c (fun b => { b with arrivals := [] })

/-- Barrier waiters whose phase has changed go on (R232): PHASE is sampled once per clock, after its arrivals. -/
def releaseBarriers (s : State) : State :=
  s.threads.foldl (fun s t => match t.wait with
    | .barrier n ph => if t.live && barrierPhase s t.core n != ph then passBarrier s t.core t.slot else s
    | _ => s) s

end Sys2Proof.Machine
end

