-- ==== Sys2Proof/Machine/Engines.lean ====
section
/-! DEFINITION. Class 8: copies, prefetch, batches, collectives and EMIT (R235, R236, R281 to R284, R306 to R310, R389 to
R392, R395, R396, R449, R450, R483 to R485, R490, R491), with COPY_COMMAND_END, TIER_TIMEOUT, COLL_START and
COLL_TIMEOUT. -/

namespace Sys2Proof.Machine

/-! ## Tensor descriptors (R306, R307) -/

/-- The fields of a descriptor's 128 bytes. -/
def parseDesc (v : Nat) : TensorDesc where
  base := BitVec.ofNat 64 v
  space := bits v 71 64
  ndim := bits v 79 72
  esz := bits v 87 80
  sizes := (List.range 5).map (fun i => bits v (159 + 32 * i) (128 + 32 * i))
  strides := (List.range 4).map (fun i => (BitVec.ofNat 64 (v / 2 ^ (320 + 64 * i))).toInt)
  timeout := bits v 607 576

def TensorDesc.none : TensorDesc := ⟨0, 0, 0, 0, [], [], 0⟩

def TensorDesc.es (d : TensorDesc) : Nat := 2 ^ d.esz

/-- The dimensions in use with their byte strides, innermost first. -/
def TensorDesc.dims (d : TensorDesc) : List (Nat × Int) :=
  (d.sizes.zip ((d.es : Int) :: d.strides)).take d.ndim

def TensorDesc.count (d : TensorDesc) : Nat := (d.dims.map (·.1)).prod

/-- The bytes that a command over this tensor counts. -/
def TensorDesc.bytes (d : TensorDesc) : Nat := d.count * d.es

def indexOffset : List (Nat × Int) → Nat → Int
  | [], _ => 0
  | (n, st) :: r, e => ((e % n : Nat) : Int) * st + indexOffset r (e / n)

/-- The address of element e in command order. -/
def TensorDesc.addr (d : TensorDesc) (e : Nat) : Int := (d.base.toNat : Int) + indexOffset d.dims e

/-- The lowest address of an element and the highest address of a byte. -/
def TensorDesc.low (d : TensorDesc) : Int :=
  (d.base.toNat : Int) + (d.dims.map (fun x => min 0 (((x.1 : Int) - 1) * x.2))).sum
def TensorDesc.high (d : TensorDesc) : Int :=
  (d.base.toNat : Int) + (d.dims.map (fun x => max 0 (((x.1 : Int) - 1) * x.2))).sum + d.es - 1

def TensorDesc.rangeOk (d : TensorDesc) : Bool :=
  d.space ≤ 2 && 1 ≤ d.ndim && d.ndim ≤ 5 && d.esz ≤ 4 && d.dims.all (fun x => 1 ≤ x.1 && x.1 ≤ 2 ^ 24)

/-- Base and strides are multiples of the element size. -/
def TensorDesc.aligned (d : TensorDesc) : Bool :=
  d.base.toNat % d.es == 0 && d.dims.all (fun x => x.2 % (d.es : Int) == 0)

/-- Each stride is the size of what lies inside it. -/
def denseFrom (inner : Nat) : List (Nat × Int) → Bool
  | [] => true
  | (n, st) :: r => st == (inner : Int) && denseFrom (inner * n) r

def TensorDesc.dense (d : TensorDesc) : Bool := denseFrom d.es d.dims

/-- One whole 64 KiB unit, densely. -/
def TensorDesc.wholeUnit (d : TensorDesc) : Bool := d.base.toNat % 65536 == 0 && d.dense && d.bytes == 65536

def TensorDesc.inX (d : TensorDesc) : Bool := d.space != 1 || (0 ≤ d.low && d.high < (xBytes : Int))

/-- The format check of a command (R307, R450, R485). A command without a block reaches no X-buffer and no W-buffer
(log entry 11). -/
def CopyCmd.formatOk (k : CopyCmd) : Bool :=
  match k.kind with
  | .pfetch => k.src.rangeOk && k.src.aligned && k.src.space == 0
  | _ =>
    k.src.rangeOk && k.dst.rangeOk && k.src.count == k.dst.count && k.src.esz == k.dst.esz && k.src.aligned &&
    k.dst.aligned && k.src.space != 2 && k.src.inX && k.dst.inX &&
    (k.dst.space != 2 || (k.dst.wholeUnit && k.dst.base.toNat / 65536 ≤ 47 && k.src.space == 0 && k.src.wholeUnit)) &&
    (k.block.isSome || (k.src.space == 0 && k.dst.space == 0))

/-! ## Commands -/

def State.copy? (s : State) (id : Nat) : Option CopyCmd := s.copies.find? (fun k => k.id == id)

def State.modCopy (s : State) (id : Nat) (f : CopyCmd → CopyCmd) : State :=
  { s with copies := s.copies.map (fun k => if k.id == id then f k else k) }

/-- The core whose engines run a command; the hub for a COPY waypoint's. -/
def CopyCmd.core (k : CopyCmd) : Nat := (k.block.map (·.1)).getD Config.numCores

def CopyCmd.agent (k : CopyCmd) : Agent := ⟨k.core, k.ctx, k.table⟩

def CopyCmd.total (k : CopyCmd) : Nat := if k.kind = .tcpy then k.dst.bytes else k.src.bytes

/-- A command ends; its completion word and arrival follow as COPY_COMMAND_END. -/
def endCopy (s : State) (id code cause : Nat) : State :=
  (s.modCopy id (fun k => { k with ended := some (code, cause) })).post (.copyCommandEnd id)

/-- POS of a completion word in 32-byte units; a copy that ran to its end counts its full length (R283, R284), and a
collective what it has written (R391). -/
def CopyCmd.posUnits (k : CopyCmd) (code : Nat) : Nat :=
  if code ≤ 1 then ((if k.kind = .coll then k.pos else k.total) + 31) / 32 else k.pos / 32

/-- The completion codes of a fault (R209, R284). -/
def srcCode (cause : Nat) : Nat := if cause = cLeaseExpired ∨ cause = cLeaseRecalled ∨ cause = cLenderLost then codeLease else codeAborted
def dstCode (cause : Nat) : Nat := if cause = cLeaseExpired ∨ cause = cLeaseRecalled ∨ cause = cLenderLost then codeLease else codeDstFault

/-- The check of an engine's access. The package kernel's copies in context 0 may read a recalled extent (R301). -/
def engineCheck (s : State) (ag : Agent) (va : Int) (n : Nat) (write : Bool) : State × Except Trap Xlated :=
  let a : DWord := BitVec.ofInt 64 va
  if va < 0 ∨ 2 ^ 52 ≤ va then (s, .error (Trap.at cPerm 1 1 a))
  else
    let r := checkAccess s ag a n (if write then needW else needR) (if write then 2 else 1)
    match r.2 with
    | .error t =>
      if t.cause = cLeaseRecalled ∧ ag.ctx = 0 ∧ !write ∧ beLease (r.1.borrowEntry t.phys) ≠ 0 then
        checkAccess r.1 ag a n needR 1 true
      else r
    | .ok _ => r

/-- Global bytes that an engine reads, with their poison and the leaf that they came through, or the completion code and
cause. -/
def engineReadVia (s : State) (ag : Agent) (va : Int) (n : Nat) :
    State × Except (Nat × Nat) (List Byte × Bool × Pte) :=
  let r := engineCheck s ag va n false
  match r.2 with
  | .error t => (r.1, .error (srcCode t.cause, t.cause))
  | .ok x =>
    if r.1.remote x.pa && !r.1.live.contains (paPkg x.pa) then (r.1, .error (codePeerLost, cPeerLost))
    else
      let b := agentRead r.1 ag.ctx x n
      (b.1, .ok (b.2.1, b.2.2, x.pte))

/-- The same without the leaf. -/
def engineRead (s : State) (ag : Agent) (va : Int) (n : Nat) : State × Except (Nat × Nat) (List Byte × Bool) :=
  let r := engineReadVia s ag va n
  (r.1, r.2.map (fun b => (b.1, b.2.1)))

/-- Bytes that an engine writes at a checked address, and whether they are in memory now; a refusal by the other package
sets the issuing thread's latch (R314). -/
def engineWrite (s : State) (k : CopyCmd) (x : Xlated) (bs : List Byte) : State × Bool :=
  let w := agentWrite s k.ctx none x bs 1 (copyWriter k.id)
  match w.2, k.block with
  | some p, some b => (setLatch w.1 b.1 b.2 p, false)
  | some _, none => (w.1, false)
  | none, _ => (w.1, paTier x.pa != 3)

/-! ## Bound checks of a command's writes (R149) -/

/-- Bytes of a page that a bound check needs, read as the command reads any byte (R200, R216). A remote read that
returns poison, as a refused one does, gives no bytes (R314; DESIGN CHOICE, log entry 82). -/
def boundRead (s : State) (k : CopyCmd) (x : Xlated) (a n : Nat) : State × Option (List Byte) :=
  if n = 0 then (s, some [])
  else
    let r := agentRead s k.ctx { x with pa := a } n
    (r.1, if r.2.2 && s.remote a then none else some r.2.1)

/-- A group's record, read in the same way; 0 where the format has none. -/
def copyRecord (s : State) (k : CopyCmd) (x : Xlated) (f : PageFmt) (a : Nat) : State × Option Nat :=
  let r := boundRead s k x a f.recBytes
  (r.1, r.2.map leNat)

/-- The mask of bytes of an element at `a` that a write covers. -/
def coverMask (a w pa n : Nat) : BitVec 8 :=
  (List.range w).foldl (fun (m : BitVec 8) i => if pa ≤ a + i ∧ a + i < pa + n then m ||| (1#8 <<< i) else m) 0

/-- A write that may meet bounds: the bytes to write and where they start, or the TRAP hit. Only elements of which the
command has now written every byte are checked, each under its group's record as it stands at the home (R216, R235); one
whose other bytes or record cannot be read is written unchecked (log entry 82). Bytes beside the write are written only
where a clamp changed them. -/
def copyBound (s : State) (k : CopyCmd) (x : Xlated) (bs : List Byte) :
    State × Except Unit (Nat × List Byte × List (Nat × BitVec 8)) :=
  match (if x.pte.bidx = 0 then none else pageFmt x.pte.fmt x.pte.geo) with
  | none => (s, .ok (x.pa, bs, k.halfDone))
  | some f =>
    let unit := x.pa / 65536 * 65536
    let w := Nat.max 1 (f.ebits / 8)
    if f.dataEnd < x.pa - unit + bs.length then (s, .ok (x.pa, bs, k.halfDone))
    else
      let lo := x.pa / w * w
      let hi := (x.pa + bs.length + w - 1) / w * w
      let starts := (List.range ((hi - lo) / w)).map (fun i => lo + w * i)
      let maskOf := fun (a : Nat) =>
        coverMask a w x.pa bs.length ||| ((k.halfDone.find? (fun e => e.1 == a)).map (·.2)).getD 0
      let full := fun (a : Nat) => (maskOf a).toNat == 2 ^ w - 1
      let half := (k.halfDone.filter (fun e => !starts.contains e.1)) ++
        (starts.filter (fun a => !full a)).map (fun a => (a, maskOf a))
      let own := x.pa - lo
      let rest := hi - (x.pa + bs.length)
      let pre := boundRead s k x lo (if full lo then own else 0)
      let post := boundRead pre.1 k x (x.pa + bs.length) (if full (hi - w) then rest else 0)
      let unread := fun (a : Nat) => (a < x.pa && pre.2.isNone) || (x.pa + bs.length < a + w && post.2.isNone)
      let before := (pre.2.getD [] ++ List.replicate own 0).take own
      let after := (post.2.getD [] ++ List.replicate rest 0).take rest
      let go := fun (acc : State × Except Unit (List Byte)) (a : Nat) =>
        match acc.2 with
        | .error e => (acc.1, .error e)
        | .ok l =>
          if !full a || unread a then acc
          else
            let i := 8 * (a - unit) / f.ebits
            let m := if f.ebits = 4 then 2 else 1
            let rc := (List.range m).foldl (fun (a : State × List (Nat × Option Nat)) j =>
              let g := copyRecord a.1 k x f (unit + f.metaAddr (i + j))
              (g.1, a.2 ++ [(f.code (lo - unit) l (i + j), g.2)])) (acc.1, [])
            if rc.2.any (fun e => e.2.isNone) then (rc.1, .ok l)
            else
              let r := boundCodes rc.1 (cohortOf k.core) x.pte.bidx f false 0 (rc.2.map (fun e => (e.1, e.2.getD 0)))
              match r.2 with
              | .error _ => (r.1, .error ())
              | .ok cs =>
                let nb := if f.ebits = 4 then [BitVec.ofNat 8 (cs.getD 0 0 + 16 * cs.getD 1 0)]
                  else leBytes (cs.getD 0 0) w
                (r.1, .ok (l.take (a - lo) ++ nb ++ l.drop (a - lo + w)))
      let r := starts.foldl go (post.1, .ok (before ++ bs ++ after))
      match r.2 with
      | .error e => (r.1, .error e)
      | .ok l =>
        let first := if l.take own == before then x.pa else lo
        let l := if l.drop (own + bs.length) == after then l.take (own + bs.length) else l
        (r.1, .ok (first, l.drop (first - lo), half))

/-! ## One unit of a copy (R485) -/

/-- Where the unit at a position ends: a unit of 32 bytes, into the W-buffer of 64 (R143, R281). -/
def CopyCmd.unitEnd (k : CopyCmd) : Nat :=
  Nat.min (if k.kind == .tcpy && k.dst.space == 2 then k.pos / 64 * 64 + 64 else k.pos + 32) k.total

/-- The elements that feed the unit at a position. -/
def CopyCmd.unitElems (k : CopyCmd) : List Nat :=
  let es := k.src.es
  let first := k.pos / es
  (List.range ((k.unitEnd - k.pos) / es)).map (first + ·)

/-- One source element, with the leaf of global memory that it came through. -/
def readElem (s : State) (k : CopyCmd) (e : Nat) : State × Except (Nat × Nat) (List Byte × Bool × Option Pte) :=
  if k.src.space = 1 then
    let a := (k.src.addr e).toNat
    (s, .ok (xRead s k.core a k.src.es, xPoisoned s k.core a k.src.es, none))
  else
    let r := engineReadVia s k.agent (k.src.addr e) k.src.es
    (r.1, r.2.map (fun b => (b.1, b.2.1, some b.2.2)))

/-- The source of a unit: the bytes of each element, whether any is poisoned, and the leaf of the first. -/
def readUnit (s : State) (k : CopyCmd) : State × Except (Nat × Nat) (List (List Byte) × Bool × Option Pte) :=
  k.unitElems.foldl (fun acc e =>
    match acc.2 with
    | .error x => (acc.1, .error x)
    | .ok l =>
      let r := readElem acc.1 k e
      match r.2 with
      | .error x => (r.1, .error x)
      | .ok b => (r.1, .ok (l.1 ++ [b.1], l.2.1 || b.2.1, l.2.2 <|> b.2.2))) (s, .ok ([], false, none))

/-- The destination checks of a unit of global memory. -/
def checkUnit (s : State) (k : CopyCmd) : State × Except (Nat × Nat) (List Xlated) :=
  k.unitElems.foldl (fun acc e =>
    match acc.2 with
    | .error x => (acc.1, .error x)
    | .ok l =>
      let r := engineCheck acc.1 k.agent (k.dst.addr e) k.dst.es true
      match r.2 with
      | .error t => (r.1, .error (dstCode t.cause, t.cause))
      | .ok x =>
        if r.1.remote x.pa && !r.1.live.contains (paPkg x.pa) then (r.1, .error (codePeerLost, cPeerLost))
        else (r.1, .ok (l ++ [x]))) (s, .ok [])

/-- The writes of a unit to global memory, with the addresses that were written; the first TRAP hit stops them. -/
def writeUnit (s : State) (id : Nat) (ws : List (Xlated × List Byte)) : State × List Nat × Option (Nat × Nat) :=
  ws.foldl (fun (acc : State × List Nat × Option (Nat × Nat)) w =>
    match acc.2.2, acc.1.copy? id with
    | none, some k =>
      let b := copyBound acc.1 k w.1 w.2
      match b.2 with
      | .error _ => (b.1, acc.2.1, some (codeDstFault, cBound))
      | .ok r =>
        let s := b.1.modCopy id (fun k => { k with halfDone := r.2.2 })
        let e := engineWrite s k { w.1 with pa := r.1 } r.2.1
        (e.1, if e.2 then acc.2.1 ++ [w.1.pa] else acc.2.1, none)
    | _, _ => acc) (s, [], none)

/-- The sectors that a unit writes whole. -/
def wholeSectors (pas : List Nat) (es : Nat) : List Nat :=
  let all := pas.flatMap (fun a => (List.range es).map (a + ·))
  ((pas.map (· / 32)).dedup).filter (fun k => (List.range 32).all (fun i => all.contains (32 * k + i)))

/-- The marks of a unit's destination in global memory (R285). -/
def markUnit (s : State) (pas : List Nat) (es : Nat) (po : Bool) : State :=
  if po then { s with poison := pas.foldl (fun l a => insertNat l (a / 32)) s.poison }
  else
    let whole := wholeSectors pas es
    { s with poison := s.poison.filter (fun k => !whole.contains k) }

/-- The unit written to the X-buffer or W-buffer of the command's core. A W-buffer unit that is written only in part
keeps its mark (R285). -/
def writeLocal (s : State) (k : CopyCmd) (data : List (List Byte)) (po : Bool) : State :=
  let pas := k.unitElems.map (fun e => (k.dst.addr e).toNat)
  let ws := pas.zip data
  if k.dst.space = 1 then
    let s := ws.foldl (fun s w => xWrite s k.core w.1 w.2) s
    let whole := wholeSectors pas k.dst.es
    s.modBlock k.core (fun b => { b with
      xpoison := if po then pas.foldl (fun l a => insertNat l (a / 32)) b.xpoison
        else b.xpoison.filter (fun u => !whole.contains u) })
  else
    let a := pas.headD 0
    s.modBlock k.core (fun b => { b with
      wbuf := ws.foldl (fun m w => writeBytes m w.1 w.2) b.wbuf
      wpoison := if po then insertNat b.wpoison (a / 64)
        else if a % 64 = 0 && k.unitEnd == k.pos + 64 then b.wpoison.filter (· != a / 64) else b.wpoison })

/-- A region's tag taken from the leaf through which the source is read (R139, R485). -/
def tagRegion (s : State) (k : CopyCmd) (leaf : Option Pte) : State :=
  match (if k.kind = .tcpy && k.dst.space = 2 then leaf else none) with
  | some e => s.modBlock k.core (fun b => { b with
      wfmt := SMap.set b.wfmt (k.dst.base.toNat / 65536) (BitVec.ofNat 8 e.fmt)
      wgeo := SMap.set b.wgeo (k.dst.base.toNat / 65536) (BitVec.ofNat 8 e.geo) })
  | none => s

/-- A unit done: the committed position passes it (R282). -/
def passUnit (s : State) (k : CopyCmd) (po : Bool) : State :=
  s.modCopy k.id (fun k => { k with
    pos := k.unitEnd, poisoned := k.poisoned || po, sinceUs := s.timeUs })

/-- One unit of TCPY. -/
def tcpyUnit (s : State) (k : CopyCmd) : State :=
  let r := readUnit s k
  match r.2 with
  | .error e => endCopy r.1 k.id e.1 e.2
  | .ok d =>
    let po := d.2.1
    let s := if k.begun then r.1 else tagRegion (r.1.modCopy k.id (fun k => { k with begun := true })) k d.2.2
    if k.dst.space ≠ 0 then passUnit (writeLocal s k d.1 po) k po
    else
      let x := checkUnit s k
      match x.2 with
      | .error e => endCopy x.1 k.id e.1 e.2
      | .ok xs =>
        let w := writeUnit x.1 k.id (xs.zip d.1)
        let s := markUnit w.1 w.2.1 k.dst.es po
        match w.2.2 with
        | some e => endCopy s k.id e.1 e.2
        | none => passUnit s k po

/-- A line placed clean at its home, or in a foreign way for another package's address (R188, R303, R450), where the
page's CPOL lets it live there (R200); the commands of a COPY waypoint run on any engine, so on one of any cohort. -/
def placeLine (s : State) (k : CopyCmd) (cpol pa : Nat) : State :=
  let c := (k.block.map (·.1)).getD (Config.freeNat k.id % Config.numCores)
  if cpol = 2 then s
  else if s.remote pa then
    if cpol = 1 || s.foreignWays.any (fun f => f.1 == cohortOf c && f.2.1 == pa / 32) then s
    else foreignInsert s c (pa / 32) (sectorOfBytes (memBytes s (pa / 32 * 32) 32)) (s.poison.contains (pa / 32))
  else
    let s := touchLine s pa
    if paTier pa = 2 then putBorrow s (pa / 32) (borrowSector s (pa / 32)) false else s

/-- One unit of PFETCH. -/
def pfetchUnit (s : State) (k : CopyCmd) : State :=
  let r := k.unitElems.foldl (fun (acc : State × Except (Nat × Nat) Bool) e =>
    match acc.2 with
    | .error x => (acc.1, .error x)
    | .ok po =>
      let c := engineCheck acc.1 k.agent (k.src.addr e) k.src.es false
      match c.2 with
      | .error t => (c.1, .error (srcCode t.cause, t.cause))
      | .ok x =>
        if c.1.remote x.pa && !c.1.live.contains (paPkg x.pa) then (c.1, .error (codePeerLost, cPeerLost))
        else
          let f := remoteRefused c.1 k.ctx x.pa 0
          let s := if paTier x.pa = 3 || f.1 then f.2 else placeLine f.2 k x.pte.cpol x.pa
          (s, .ok (po || f.1 || (sectorsOf x.pa k.src.es).any (fun u => s.poison.contains u)))) (s, .ok false)
  match r.2 with
  | .error e => endCopy r.1 k.id e.1 e.2
  | .ok po => passUnit (r.1.modCopy k.id (fun k => { k with begun := true })) k po

/-! ## The start of a collective (R391, R392) -/

/-- The FORMAT part of a collective's record check (R391). -/
def CopyCmd.recordOk (k : CopyCmd) (r : CollRec) : Bool :=
  !(2 < r.op || 1 < r.alg || 1 < r.ty || k.src.space != 0 || k.src.ndim != 1 ||
    k.src.esz != (if r.ty = 0 then 2 else 1) || r.flag.toNat % 4 != 0 ||
    ((r.op == 1 || r.op == 2) && k.src.count % r.n != 0) || !k.src.rangeOk || !k.src.aligned)

/-- The record check (R391): FORMAT, or ABORTED for the COLLID of an earlier command that has not ended. -/
def collCheck (s : State) (k : CopyCmd) (r : CollRec) : Option (Nat × Nat) :=
  if !k.recordOk r then some (codeFormat, cFormat)
  else if s.copies.any (fun (x : CopyCmd) => x.id < k.id && x.ended.isNone && x.coll.any (fun y => y.id == r.id)) then
    some (codeAborted, 0)
  else none

/-- The collectives of the package that are in progress. -/
def CopyCmd.started (k : CopyCmd) : Bool := k.coll.any (·.started)
def collsRunning (s : State) : Nat :=
  (s.copies.filter (fun (k : CopyCmd) => k.kind == .coll && k.started && k.ended.isNone)).length

/-- Why a collective that has not been checked ends at its record check (R391). -/
def collFails (s : State) (k : CopyCmd) : Option (Nat × Nat) :=
  if k.begun then none else k.coll.bind (collCheck s k)

/-- A collective waits while 64 are in progress, and so does one behind another that waits (R392). -/
def collWaits (s : State) (k : CopyCmd) : Bool :=
  64 ≤ collsRunning s || s.copies.any (fun (x : CopyCmd) => x.kind == .coll && x.id < k.id && x.ended.isNone && !x.started)

/-- A collective's turn: its record check, at which it may end, and then it is in progress once it need not wait. -/
def collBegin (s : State) (k : CopyCmd) : State :=
  match collFails s k with
  | some e => endCopy s k.id e.1 e.2
  | none => s.modCopy k.id (fun x => { x with
      begun := true
      coll := if collWaits s k then x.coll else x.coll.map (fun r => { r with started := true }) })

/-- Why a copy ends before its first unit (R485): its format, or a completion word that already said OK. -/
def CopyCmd.early (k : CopyCmd) : Option (Nat × Nat) :=
  if k.begun then none
  else if !k.formatOk then some (codeFormat, cFormat)
  else if k.resumeFrom.any (fun r => r.1 == 0) then some (codeOk, 0)
  else none

/-- A command's next unit, its format check and start first (R485, R391). -/
def copyStep (s : State) (id : Nat) : State :=
  match s.copy? id with
  | none => s
  | some k =>
    if k.ended.isSome then s
    else if k.kind == .coll then (if k.started then s else collBegin s k)
    else match k.early with
      | some e => endCopy s id e.1 e.2
      | none =>
        if k.resumeFrom.isSome then s.modCopy id CopyCmd.loaded
        else if k.total ≤ k.pos then
          endCopy s id (if k.poisoned then codeSrcPoison else codeOk) (if k.poisoned then cPoison else 0)
        else if k.kind = .tcpy then tcpyUnit s k else pfetchUnit s k

/-! ## Issue (R390, R449, R484) -/

/-- A check of one structure: its address, alignment and the bytes it takes. -/
structure IssueCheck where
  va : DWord
  size : Nat
  align : Nat
  need : Need
  kind : Nat

/-- The first structure that is misaligned. -/
def misaligned (cs : List IssueCheck) : Option Trap :=
  (cs.find? (fun k => k.va.toNat % k.align != 0)).map (fun k => Trap.at cMisaligned k.align k.kind k.va)

/-- Translation of every structure, in order; descriptors of 128 bytes are checked in two halves, which may lie in two
pages. -/
def issueXlate (s : State) (c : Nat) (cs : List IssueCheck) : State × Except Trap (List (Xlated × Nat × DWord)) :=
  let parts := cs.flatMap (fun k => if k.size = 128 then
    [{ k with size := 64 }, { k with size := 64, va := k.va + 64 }] else [k])
  parts.foldl (fun acc k =>
    match acc.2 with
    | .error t => (acc.1, .error t)
    | .ok l =>
      let r := checkAccess acc.1 (acc.1.agent c) k.va k.size k.need k.kind
      match r.2 with
      | .error t => (r.1, .error t)
      | .ok x => (r.1, .ok (l ++ [(x, k.size, k.va)]))) (s, .ok [])

/-- Alignment of every structure, then translation of every structure. -/
def issueChecks (s : State) (c : Nat) (cs : List IssueCheck) : State × Except Trap (List (Xlated × Nat × DWord)) :=
  match misaligned cs with
  | some t => (s, .error t)
  | none => issueXlate s c cs

/-- Structures read at issue by the thread, in order: their bytes, and POISON for the first that is poisoned. A slice's
answer brings its congestion level (R195). -/
def issueReads (s : State) (c q : Nat) (kind : Nat) (l : List (Xlated × Nat × DWord)) : State × List Byte × Option Trap :=
  l.foldl (fun acc x =>
    let a := sliceAnswers acc.1 c q x.1 x.1.pa x.2.1
    let r := plainRead acc.1 c q x.1 x.1.pa x.2.1
    (if a then sliceAnswer r.1 c q else r.1, acc.2.1 ++ r.2.1,
      if acc.2.2.isNone && r.2.2 then some (Trap.at cPoison 0 kind x.2.2 x.1.pa) else acc.2.2)) (s, [], none)

/-- Commands of a block that have not ended (R281). -/
def openCopies (s : State) (c : Nat) : Nat :=
  (s.copies.filter (fun k => k.block.any (fun b => b.1 == c) && k.ended.isNone)).length

/-- A fresh command of a thread. -/
def newCopy (s : State) (c q : Nat) (kind : CopyKind) (desc : DWord) (src dst : TensorDesc) (coll : Option CollRec)
    (cw : Option DWord) (arv : Option Nat) (res : Option (Nat × Nat)) : State :=
  let b := s.block c
  { s with
    copies := s.copies ++ [⟨s.nextCopy, kind, some (c, q), b.ctx, b.table, none, desc, src, dst, coll, cw, arv, none, 0,
      res, false, false, [], none, false, s.timeUs⟩]
    nextCopy := s.nextCopy + 1 }

def FForm.arvOf (w : FForm) : Option Nat := if w.arv then some w.num5 else none

/-- The completion-word operand: none for code 452. -/
def cwOf (s : State) (c q : Nat) (o : Opnd) : Option DWord := if o = .zero then none else some (readPair s c q o)

def cwCheck (cw : Option DWord) (need : Need) : List IssueCheck :=
  match cw with
  | some a => [⟨a, 8, 8, need, 2⟩]
  | none => []

/-- TCPY and TCPY.RESUME at issue (R484). -/
def tcpyIssue (w : FForm) (resume : Bool) (c q : Nat) (s : State) : Eff :=
  let src := readPair s c q w.a
  let dst := readPair s c q w.b
  let cw := cwOf s c q w.c
  if Config.maxCopies ≤ openCopies s c then .hold s
  else
    let s := flushPosted s c q
    let r := issueChecks s c ([⟨src, 128, 64, needR, 1⟩, ⟨dst, 128, 64, needR, 1⟩] ++
      cwCheck cw (if resume then needRW else needW))
    match r.2 with
    | .error t => .trap r.1 t
    | .ok xs =>
      let d := issueReads r.1 c q 1 (xs.take 4)
      let e := issueReads d.1 c q 2 (if resume then xs.drop 4 else [])
      match d.2.2 <|> e.2.2 with
      | some t => .trap e.1 t
      | none =>
        let v := leNat e.2.1
        let res := if resume && bit v 63 then some (v % 8, bits v 62 24) else none
        .done (newCopy e.1 c q .tcpy src (parseDesc (leNat (d.2.1.take 128))) (parseDesc (leNat (d.2.1.drop 128))) none
          cw (FForm.arvOf w) res)

/-- TCPY (R483, R484). -/
def execTcpy (w : FForm) (s : State) : Out :=
  .next (issueWord (.tcpy w) (tcpyIssue w false) (fun _ _ s => .done s) s)

/-- TCPY.RESUME (R483, R485). -/
def execTcpyResume (w : FForm) (s : State) : Out :=
  .next (issueWord (.tcpyResume w) (tcpyIssue w true) (fun _ _ s => .done s) s)

/-- PFETCH (R449). -/
def execPfetch (w : FForm) (s : State) : Out :=
  .next (issueWord (.pfetch w) (fun c q s =>
    let src := readPair s c q w.a
    let cw := cwOf s c q w.b
    if Config.maxCopies ≤ openCopies s c then .hold s
    else
      let r := issueChecks (flushPosted s c q) c ([⟨src, 128, 64, needR, 1⟩] ++ cwCheck cw needW)
      match r.2 with
      | .error t => .trap r.1 t
      | .ok xs =>
        let d := issueReads r.1 c q 1 (xs.take 2)
        match d.2.2 with
        | some t => .trap d.1 t
        | none =>
          .done (newCopy d.1 c q .pfetch src (parseDesc (leNat d.2.1)) TensorDesc.none none cw (FForm.arvOf w) none))
    (fun _ _ s => .done s) s)

/-- The fields of a collective record (R309). -/
def parseColl (v : Nat) : CollRec where
  op := bits v 7 0
  alg := bits v 15 8
  ty := bits v 23 16
  id := bits v 63 32
  n := bits v 79 64
  flag := BitVec.ofNat 64 (v / 2 ^ 192)
  target := bits v 287 256
  started := false

/-- COLL (R390): the buffer descriptor is checked and read once the record has named it, and the completion word after
it. -/
def execColl (w : FForm) (s : State) : Out :=
  .next (issueWord (.coll w) (fun c q s =>
    let rec' := readPair s c q w.a
    let cw := cwOf s c q w.b
    if Config.maxCopies ≤ openCopies s c then .hold s
    else
      match misaligned (⟨rec', 64, 64, needR, 1⟩ :: cwCheck cw needW) with
      | some t => .trap s t
      | none =>
        let r := issueXlate (flushPosted s c q) c [⟨rec', 64, 64, needR, 1⟩]
        match r.2 with
        | .error t => .trap r.1 t
        | .ok xs =>
          let x := issueReads r.1 c q 1 xs
          let cr := parseColl (leNat x.2.1)
          let y := issueChecks x.1 c [⟨BitVec.ofNat 64 (leNat x.2.1 / 2 ^ 128), 128, 64, needR, 1⟩]
          match y.2 with
          | .error t => .trap y.1 t
          | .ok ys =>
            let z := issueXlate y.1 c (cwCheck cw needW)
            match z.2 with
            | .error t => .trap z.1 t
            | .ok _ =>
              if cr.n < 2 ∨ s.live.length < cr.n then .trap z.1 (Trap.plain cPlace 2)
              else
                let d := issueReads z.1 c q 1 ys
                match x.2.2 <|> d.2.2 with
                | some t => .trap d.1 t
                | none => .done (newCopy d.1 c q .coll rec' (parseDesc (leNat d.2.1)) TensorDesc.none (some cr) cw
                    (FForm.arvOf w) none))
    (fun _ _ s => .done s) s)

/-! ## Batches (R235, R490, R491) -/

/-- TSEAL (R490). -/
def execTseal (w : FForm) (s : State) : Out :=
  .next (issueWord (.tseal w) (fun c q s =>
    let nb := (s.thread c q).batch
    let s := { s with copies := s.copies.map (fun (k : CopyCmd) =>
      if k.block == some (c, q) && k.batch.isNone then { k with batch := some nb } else k) }
    .done (s.modThread c q (fun t => { t with batch := if nb = 0xFFFFFFFE#32 then 0 else nb + 1 })))
    (fun _ _ s => .done s) s)

/-- A command that TWAIT n covers. -/
def CopyCmd.covered (k : CopyCmd) (c q : Nat) (n : Word) : Bool :=
  k.block == some (c, q) && k.batch.any (fun b =>
    (((n.toNat : Int) - b.toNat) % (2 ^ 32 - 1) : Int) < 2 ^ 31)

/-- Every command of the awaited batches has ended. -/
def batchDone (s : State) (c q : Nat) (n : Word) : Bool :=
  s.copies.all (fun (k : CopyCmd) => !k.covered c q n || k.reported)

/-- The physical sectors of a command's global destination. -/
def dstSectors (s : State) (k : CopyCmd) : Nat → Bool :=
  let d := if k.kind = .tcpy then k.dst else k.src
  if k.kind == .pfetch || d.space != 0 || !d.rangeOk then fun _ => false
  else
    let lo := Nat.min (2 ^ 52) d.low.toNat
    inSpans (rangeSpans s k.agent lo (d.high.toNat + 1 - lo))

/-- The copies of a command's global destination that its core and cohort hold are dropped. -/
def dropDst (s : State) (c : Nat) (k : CopyCmd) : State :=
  let p := dstSectors s k
  dropForeign (selfInvalidate s c true p) c p

/-- A TWAIT returns: its commands leave, and the L1 grains of their destinations are self-invalidated (R235). -/
def finishBatch (s : State) (c q : Nat) (n : Word) : State :=
  let mine := s.copies.filter (fun (k : CopyCmd) => k.covered c q n)
  let s := mine.foldl (fun s k => dropDst s c k) s
  { s with copies := s.copies.filter (fun (k : CopyCmd) => !k.covered c q n) }

/-- TWAIT (R490). -/
def execTwait (w : FForm) (s : State) : Out :=
  .next (issueWord (.twait w) (fun c q s =>
    let n := readWord s c q w.a
    if batchDone s c q n then .done (finishBatch s c q n)
    else .hold (s.modThread c q (fun t => { t with wait := .batch n }))) (fun _ _ s => .done s) s)

/-- Threads whose TWAIT is met go on. -/
def releaseBatches (s : State) : State :=
  s.threads.foldl (fun s t => match t.wait with
    | .batch n =>
      if t.live && batchDone s t.core t.slot n then
        completeWord ((finishBatch s t.core t.slot n).modThread t.core t.slot (fun t => { t with wait := .none }))
          t.core t.slot
      else s
    | _ => s) s

/-! ## The end of a command -/

/-- An instance of a COPY waypoint ends once every command of it has; a failed command fails its waypoint (R265). -/
def copyInstance (s : State) (k : CopyCmd) : State :=
  match k.owner with
  | none => s
  | some (r, wp, inst) =>
    let code := (k.ended.map (·.1)).getD 0
    let s := if code = 0 then s
      else errorNoCore (s.modRoute r (fun x => { x with failedWps := insertNat x.failedWps wp })) r 4 wp inst code
        k.desc.toNat
    let left := s.copies.any (fun (x : CopyCmd) => x.owner == some (r, wp, inst) && !x.reported)
    if left then s
    else
      let s := { s with copies := s.copies.filter (fun (x : CopyCmd) => x.owner != some (r, wp, inst)) }
      match s.route? r with
      | none => s
      | some x =>
        let a := x.wpBase + 0x200 * wp + 0x170
        let st := physRead s a 8
        ((physWrite st.1 a (st.2.1 - 2 ^ 8) 8).post (.waypointEvaluate r wp)).post (.waypointComplete r wp)

/-- A command that may write: its checks of format have passed, or would pass (R307, R391). -/
def CopyCmd.mayWrite (k : CopyCmd) : Bool :=
  k.begun || (match k.kind with
    | .tcpy => k.formatOk
    | .pfetch => false
    | .coll => k.coll.any k.recordOk)

/-- A command that ended with a code other than OK, begun or not, leaves the bytes beyond POS undefined (R284, R392).
One that fails a check of format writes nothing (R307, R391), and from a TRAP hit on nothing is written (R149). -/
def CopyCmd.leavesUndefined (k : CopyCmd) (code cause : Nat) : Bool :=
  k.mayWrite && k.kind != .pfetch && code != codeOk && code != codeFormat && cause != cBound

/-- The undefined bytes of one destination element, where the command could have written it. -/
def putUndefined (k : CopyCmd) (d : TensorDesc) (ctr : Nat) (s : State) (e : Nat) : State :=
  let bs := (List.range d.es).map (fun i => Config.freeByte ctr (d.es * e + i))
  if d.es * e < k.pos then s
  else if d.space = 1 then xWrite s k.core (d.addr e).toNat bs
  else if d.space = 2 then
    s.modBlock k.core (fun b => { b with wbuf := writeBytes b.wbuf (d.addr e).toNat bs })
  else match (engineCheck s k.agent (d.addr e) d.es true).2 with
    | .error _ => s
    | .ok x => if paTier x.pa = 3 then s else (agentWrite s k.ctx none x bs 1 (copyWriter k.id)).1

def undefinedTail (s : State) (k : CopyCmd) (code cause : Nat) : State :=
  if k.leavesUndefined code cause then
    let d := if k.kind = .tcpy then k.dst else k.src
    (List.range d.count).foldl (putUndefined k d s.freeCtr) { s with freeCtr := s.freeCtr + 1 }
  else s

/-- COPY_COMMAND_END (R233, R236, R283): the completion word, then the arrival, whatever the code. What the core's L1
still holds of the destination goes first: the threads that the arrival releases read what the command wrote (R234). -/
def execCopyCommandEnd (id : Nat) (s : State) : Out :=
  .next (match s.copy? id with
    | none => s
    | some k =>
      match k.ended with
      | some (code, cause) =>
        if k.reported then s
        else
          let s := undefinedTail (noteRelease s (copyWriter id)) k code cause
          let s := if k.block.isSome then dropDst s k.core k else s
          let s := match k.cw with
            | some a => completionWrite s k.agent a (k.posUnits code) cause code (k.block.map (fun (b : Nat × Nat) => b.2))
            | none => s
          let s := s.modCopy id (fun k => { k with reported := true })
          let s := match k.arv with
            | some n => arrive s k.core n false
            | none => s
          copyInstance s k
      | none => s)

/-! ## Timeouts -/

def State.msOf (s : State) (hi lo : Nat) : Nat := bits s.regs.lendCfg.toNat hi lo

/-- The tier timeout in ms of one element: the descriptor's, else the tier's; none in tier 0 (R295, R306). -/
def elemLimit (s : State) (k : CopyCmd) (d : TensorDesc) (e : Nat) : Option Nat :=
  let va := (d.addr e).toNat
  match (walkFrom s va 3 1 k.table).2 with
  | .fail _ _ => none
  | .leaf l level _ =>
    let sh := levelShift level
    let pa := l.ppn * 2 ^ 16 / 2 ^ sh * 2 ^ sh + va % 2 ^ sh
    let own := fun (n : Nat) => some (if d.timeout = 0 then n else d.timeout)
    if s.remote pa || paTier pa = 2 then own (s.msOf 47 32) else if paTier pa = 1 then own (s.msOf 31 16) else none

/-- The tier timeout in ms that one side of a command's next unit waits under; none in tier 0 and on the core (R295,
R306, R307). Of a unit in several tiers the longest limit counts (DESIGN CHOICE, log entry 62). -/
def sideLimit (s : State) (k : CopyCmd) (d : TensorDesc) : Option Nat :=
  if d.space ≠ 0 then none
  else (k.unitElems.filterMap (elemLimit s k d)).foldl (fun (m : Option Nat) n => some (Nat.max (m.getD 0) n)) none

def ranOut (s : State) (k : CopyCmd) (limit : Option Nat) : Bool := limit.any (fun ms => k.sinceUs + 1000 * ms ≤ s.timeUs)

/-- A copy whose next unit has waited too long. -/
def copyDue (s : State) (k : CopyCmd) : Bool :=
  let k := k.loaded
  k.ended.isNone && k.kind != .coll && k.pos < k.total &&
    (ranOut s k (sideLimit s k k.src) || (k.kind == .tcpy && ranOut s k (sideLimit s k k.dst)))

/-- TIER_TIMEOUT (R307): a unit that did not obtain its data in time stops its command, which its format check or its
completion word may have stopped before (R485). -/
def execTierTimeout (id : Nat) (s : State) : Out :=
  .next (match s.copy? id with
    | none => s
    | some k =>
      if copyDue s k then
        let e := k.early.getD (codeTierTimeout, 0)
        endCopy (s.modCopy id CopyCmd.loaded) id e.1 e.2
      else s)

/-! ## Collectives (R309, R310, R391, R392) -/

/-- The live members in ring order from this package on, and the member set of a command as its package numbers. -/
def memberSet (s : State) (n : Nat) : List Nat :=
  let up := sortNat (s.live.filter (fun p => s.pkg ≤ p))
  let down := sortNat (s.live.filter (fun p => p < s.pkg))
  sortNat ((up ++ down).take n)

def setCode (ps : List Nat) : Nat := (ps.map (fun p => 2 ^ p)).sum

/-- An FP32 sum under RNE (R310). -/
def f32Sum (a b : Nat) : Nat := f32Add a b

/-- One level of the tree: adjacent partials in pairs. -/
def pairUp : List Nat → List Nat
  | a :: b :: r => f32Sum a b :: pairUp r
  | l => l

def treeSum : Nat → List Nat → Nat
  | 0, l => l.headD 0
  | fuel + 1, l => if l.length ≤ 1 then l.headD 0 else treeSum fuel (pairUp l)

/-- The reduction of one element over the ring positions (R392), in the command's type. -/
def reduceElem (alg ty : Nat) (vs : List Nat) : Nat :=
  let ws := if ty = 1 then vs.map (· * 65536) else vs
  let r := if alg = 0 then (ws.drop 1).foldl f32Sum (ws.headD 0) else treeSum 11 ws
  if ty = 1 then (fmtBF16.encode .rne false (fmtF32.decode r)).1 else r

/-- The element that a member ends with: none leaves it as it is. `bufs` holds every member's elements by ring position,
`p` is the own one, `i` the element. -/
def collElem (r : CollRec) (e : Nat) (bufs : List (List Nat)) (p i : Nat) : Option Nat :=
  let seg := i / (e / r.n)
  let red := reduceElem r.alg r.ty (bufs.map (fun l => l.getD i 0))
  match r.op with
  | 0 => some red
  | 1 => some ((bufs.getD seg []).getD i 0)
  | _ => if seg = p then some red else none

/-- An element that a member ends with takes poison from those that it comes from (R285). -/
def collMarked (r : CollRec) (e : Nat) (marks : List (List Nat)) (i : Nat) : Bool :=
  if r.op = 1 then (marks.getD (i / (e / r.n)) []).contains i else marks.any (fun l => l.contains i)

/-- The whole buffer as the member reads it: element codes, and which elements are poisoned. -/
def collRead (s : State) (k : CopyCmd) : State × Except (Nat × Nat) (List Nat × List Nat) :=
  (List.range k.src.count).foldl (fun acc e =>
    match acc.2 with
    | .error x => (acc.1, .error x)
    | .ok l =>
      let r := engineRead acc.1 k.agent (k.src.addr e) k.src.es
      match r.2 with
      | .error x => (r.1, .error x)
      | .ok b => (r.1, .ok (l.1 ++ [leNat b.1], if b.2 then l.2 ++ [e] else l.2))) (s, .ok ([], []))

/-- The marks of sectors that a collective has written: those of its poisoned elements are set, and sectors written
whole lose theirs (R285). `ws` lists what was written, by element address. -/
def collMarks (s : State) (es : Nat) (ws : List (Nat × Bool)) : State :=
  let bad := ws.filter (·.2)
  markUnit (markUnit s (ws.map (·.1)) es false) (bad.map (·.1)) es (!bad.isEmpty)

/-- The results written in command order, stopping at the first element that cannot be written; which elements are in
memory now, by address. -/
def collWrite (s : State) (k : CopyCmd) (vs : List (Option Nat)) (mark : Nat → Bool) :
    State × List (Nat × Bool) × Option (Nat × Nat) :=
  (List.range vs.length).foldl (fun (acc : State × List (Nat × Bool) × Option (Nat × Nat)) e =>
    match acc.2.2 with
    | some _ => acc
    | none =>
      let pass := fun (s : State) => s.modCopy k.id (fun k => { k with pos := (e + 1) * k.src.es })
      match vs.getD e none with
      | none => (pass acc.1, acc.2)
      | some v =>
        let r := engineCheck acc.1 k.agent (k.src.addr e) k.src.es true
        match r.2 with
        | .error t => (r.1, acc.2.1, some (dstCode t.cause, t.cause))
        | .ok x =>
          let w := writeUnit r.1 k.id [(x, leBytes v k.src.es)]
          match w.2.2 with
          | some z => (w.1, acc.2.1, some z)
          | none => (pass w.1, acc.2.1 ++ w.2.1.map (fun a => (a, mark e)), none)) (s, [], none)

/-- The bucket flag, read atomically: whether it has reached TARGET, or why it cannot be read. -/
def collFlag (s : State) (k : CopyCmd) (r : CollRec) : State × Except (Nat × Nat) Bool :=
  let f := engineRead s k.agent (r.flag.toNat : Int) 4
  match f.2 with
  | .error x => (f.1, .error x)
  | .ok b => if b.2 then (f.1, .error (codeSrcPoison, cPoison)) else (f.1, .ok (r.target ≤ leNat b.1))

/-- The peers' own fields agree with the command's (R391). -/
def peersAgree (r : CollRec) (e set : Nat) (ps : List CollPeer) : Bool :=
  ps.all (fun p => p.op == r.op && p.alg == r.alg && p.ty == r.ty && p.elems == e && p.members == set)

/-- The data of a collective (R392): the buffer is read, reduced with what the others bring, and written with its marks.
A command that has written poison ends with SRC_POISON (R284). -/
def collData (s : State) (k : CopyCmd) (r : CollRec) (set : List Nat) (peers : List CollPeer) : State :=
  let b := collRead s k
  match b.2 with
  | .error e => endCopy b.1 k.id e.1 e.2
  | .ok own =>
    let p := set.findIdx (· == s.pkg)
    let others := peers.map (fun x => x.data.map (·.toNat))
    let bufs := others.take p ++ [own.1] ++ others.drop p
    let marks := (peers.map (·.marks)).take p ++ [own.2] ++ (peers.map (·.marks)).drop p
    let w := collWrite b.1 k ((List.range k.src.count).map (collElem r k.src.count bufs p))
      (collMarked r k.src.count marks)
    let s := collMarks w.1 k.src.es w.2.1
    match w.2.2 with
    | some e => endCopy s k.id e.1 e.2
    | none => if w.2.1.any (·.2) then endCopy s k.id codeSrcPoison cPoison else endCopy s k.id codeOk 0

/-- COLL_START (R391, R392): the command of every other member has matched, which its own waiting to start does not
hold up, and the bucket flag has reached TARGET: the data moves. `peers` stand in ring order, the own package left out;
`members` of a peer is the sum of 2^PKGNUM over its member set. -/
def execCollStart (id : Nat) (peers : List CollPeer) (s : State) : Out :=
  .next (
    let s := match s.copy? id with
      | some k => if k.ended.isNone && !k.started then collBegin s k else s
      | none => s
    match s.copy? id with
    | none => s
    | some k =>
      match (if k.ended.isNone then k.coll else none) with
      | none => s
      | some r =>
        let set := memberSet s r.n
        if peers.length + 1 ≠ set.length then s
        else if !peersAgree r k.src.count (setCode set) peers then endCopy s id codeFormat cFormat
        else if !k.started then s
        else
          let f := collFlag s k r
          match f.2 with
          | .error e => endCopy f.1 id e.1 e.2
          | .ok false => f.1
          | .ok true => collData f.1 k r set peers)

/-- The limit of a collective's matching and start in ms (R391). -/
def collLimit (s : State) (k : CopyCmd) : Nat := if k.src.timeout = 0 then s.msOf 47 32 else k.src.timeout

def collDue (s : State) (k : CopyCmd) : Bool :=
  k.kind == .coll && k.ended.isNone && k.sinceUs + 1000 * collLimit s k ≤ s.timeUs

/-- COLL_TIMEOUT (R391): matching and start did not both complete in time. A record check that has not been made yet
goes first. -/
def execCollTimeout (id : Nat) (s : State) : Out :=
  .next (match s.copy? id with
    | none => s
    | some k =>
      if collDue s k then
        let e := (collFails s k).getD (codeTierTimeout, 0)
        endCopy s id e.1 e.2
      else s)

/-! ## EMIT (R396) -/

/-- The record of a waypoint of a route. -/
def State.wpAddr (s : State) (route wp : Nat) : Nat :=
  match s.route? route with
  | some r => r.wpBase + 0x200 * wp
  | none => 0

/-- The ring of a record queue (R259): base, records and their size. -/
structure Ring where
  base : DWord
  capLog : Nat
  rsLog : Nat
  thresh : Nat
  resv : Nat
  tail : Nat
  head : Nat

def readRing (s : State) (wpAddr : Nat) : State × Ring :=
  let r := physRead s (wpAddr + 0x130) 32
  let v := r.2.1
  (r.1, ⟨BitVec.ofNat 64 v, bits v 71 64, bits v 79 72, bits v 95 80, bits v 159 128, bits v 191 160, bits v 223 192⟩)

/-- The successor that an entry names: none where EMIT raises FORMAT. -/
def emitTarget (s : State) (c e : Nat) : State × Option Nat :=
  let b := s.block c
  let a := s.wpAddr b.route b.wp
  let n := physRead s (a + 0xA0) 4
  if n.2.1 % 2 ^ 16 ≤ e then (n.1, none)
  else
    let arr := physRead n.1 (a + 0xA8) 8
    let t := physRead arr.1 (arr.2.1 + 4 * e) 4
    if ((t.1.route? b.route).map (·.n)).getD 0 ≤ t.2.1 then (t.1, none) else (t.1, some t.2.1)

/-- The ring checks of EMIT: the ring translates for a write and lies in the page of its base. -/
def ringCheck (s : State) (c : Nat) (r : Ring) : State × Except Trap Xlated :=
  let len := 2 ^ (r.capLog + r.rsLog)
  let x := checkAccess s (s.agent c) r.base 1 needW 2
  match x.2 with
  | .error t => (x.1, .error t)
  | .ok p =>
    match (walkFrom x.1 r.base.toNat 3 1 (x.1.block c).table).2 with
    | .leaf _ level _ =>
      if 2 ^ levelShift level < r.base.toNat % 2 ^ levelShift level + len then
        (x.1, .error (Trap.at cFormat 0 2 r.base p.pa))
      else if x.1.hole p.pa len then (x.1, .error (Trap.at cPerm 4 2 r.base p.pa))
      else (x.1, .ok p)
    | .fail _ _ => (x.1, .ok p)

/-- The declared scope of a waypoint (R257). -/
def tgtScope (s : State) (wpAddr : Nat) : Nat := bits (physRead s wpAddr 4).2.1 14 12

/-- The record as EMIT writes it, with the marks of the sectors it comes from: a release at its reader's scope that
covers the record alone (R237, R396). The thread's own posted writes to those bytes, and for a page of CPOL 2 those to
such pages, are performed first (R214, R223). Another package may refuse it like a posted write (R314, log entry 9). -/
def emitRecord (s : State) (c q : Nat) (x : Xlated) (dest xb rs scope : Nat) : State :=
  let marks := (s.block c).xpoison
  let s := flushTouching (if x.pte.cpol = 2 then flushUncached s c q else s) c q dest rs
  let w := agentWrite s (s.block c).ctx (some c) { x with pa := dest } (xRead s c xb rs) 1 (threadWriter c q)
  match w.2 with
  | some p => setLatch w.1 c q p
  | none =>
    if paTier dest = 3 then w.1
    else
      let bad := (sectorsOf dest rs).filter (fun k =>
        let lo := Nat.max dest (32 * k)
        let up := Nat.min (dest + rs) (32 * k + 32)
        (sectorsOf (xb + (lo - dest)) (up - lo)).any (fun u => marks.contains u))
      let s := { w.1 with poison := bad.foldl insertNat w.1.poison }
      if 6 ≤ scope then borrowWriteBack s (fun k => (sectorsOf dest rs).contains k) else s

/-- EMIT in one thread. Its queue descriptor lies in the waypoint record and is reached as R179 says of route
structures, by pod physical address (DEDUCED, log entry 32). Being a release, it fails at pod scope or wider while the
thread's latch is set, before it reserves anything (R292); one that finds the ring full writes nothing and does not
fail. The slices that answer it bring a congestion level (R195; log entry 76). -/
def emit (w : FForm) (c q : Nat) (s : State) : Eff :=
  let e := (readWord s c q w.a).toNat
  let xb := (readWord s c q w.b).toNat
  let xva : DWord := BitVec.ofNat 64 xb
  let t := emitTarget (sliceAnswer s c q) c e
  match t.2 with
  | none => .trap t.1 (Trap.plain cFormat 0)
  | some tgt =>
    let a := t.1.wpAddr (t.1.block c).route tgt
    let g := readRing t.1 a
    let ring := g.2
    let rs := 2 ^ ring.rsLog
    if ring.thresh = 0 then .trap g.1 (Trap.plain cFormat 0)
    else if xb % 16 ≠ 0 then .trap g.1 (Trap.at cMisaligned 16 5 xva)
    else if xBytes < xb + rs then .trap g.1 (Trap.at cPerm 5 5 xva)
    else
      let k := ringCheck g.1 c ring
      match k.2 with
      | .error f => .trap k.1 f
      | .ok x =>
        if 2 ^ ring.capLog ≤ (ring.resv + 2 ^ 32 - ring.head) % 2 ^ 32 then .done (writePred k.1 c q w.prd false)
        else
          let next := (ring.resv + 1) % 2 ^ 32
          let at' := ring.resv % 2 ^ ring.capLog * rs
          let scope := tgtScope g.1 a
          match releaseFails k.1 c q scope (ring.base + BitVec.ofNat 64 at') (x.pa + at') with
          | some f => .trap k.1 f
          | none =>
            let s := emitRecord (physWrite k.1 (a + 0x140) next 4) c q x (x.pa + at') xb rs scope
            .done (writePred (physWrite s (a + 0x144) next 4) c q w.prd true)

/-- EMIT (R395). -/
def execEmit (w : FForm) (s : State) : Out :=
  .next (issueWord (.emit w) (emit w) (fun _ _ s => .done s) s)

end Sys2Proof.Machine
end

