-- ==== Sys2Proof/Machine/Maintenance.lean ====
section
/-! DEFINITION. What the memory system does by itself: L1_EVICTION (R189), LAZY_RELEASE_DRAIN (R226), POSTED_WRITE_ACK
(R227), WRITEBACK_ENGINE (R303), PAGE_WALK (R203, R204), INVDB and INVALIDATION_COMPLETE (R205, R206), CHANNEL_RETIRE
(R192). -/

namespace Sys2Proof.Machine

/-- L1_EVICTION (R182, R189): a region of a core's L1 leaves, its dirty sectors sideways or to their homes. -/
def execL1Eviction (core region : Nat) (s : State) : Out :=
  .next (if (regionsIn (s.coreRec core) (region % 256)).contains region then evictRegion s core region else s)

/-- LAZY_RELEASE_DRAIN (R187, R226): a slice orders a core that its records name to drain, and those records go. -/
def execLazyReleaseDrain (slice core : Nat) (s : State) : Out :=
  .next (drainRecords s (fun r => r.slice == slice && r.core == core))

/-- POSTED_WRITE_ACK (R227, R292): a thread's oldest posted write is performed at its home and acknowledged, or refused
there. The links of a halted package carry none (R320). -/
def execPostedWriteAck (core slot : Nat) (s : State) : Out :=
  .next (match (if s.halted then [] else (s.thread core slot).posted) with
    | [] => s
    | p :: _ =>
      let s := s.modThread core slot (fun t => { t with posted := t.posted.drop 1 })
      performPosted core slot s p)

/-- The lines of 512 bytes that a slice of 2 MiB holds (R186). -/
def sliceCapacity : Nat := 4096

/-- The dirty borrowed lines that a slice holds, oldest first. -/
def sliceBorrowed (s : State) (slice : Nat) : List Nat :=
  (((s.borrowLines.filter (fun l => l.dirty && s.sliceOf (32 * l.sector) == slice)).map
    (fun l => l.sector / 16)).reverse.dedup).reverse

/-- WRITEBACK_ENGINE (R303): above 25 % of a slice's lines, the oldest dirty borrowed lines go back until 12.5 %
remain. -/
def execWritebackEngine (slice : Nat) (s : State) : Out :=
  let mine := sliceBorrowed s slice
  .next (if sliceCapacity / 4 < mine.length then
    let back := mine.take (mine.length - sliceCapacity / 8)
    borrowWriteBack s (fun k => back.contains (k / 16))
  else s)

/-- PAGE_WALK (R203, R204): the walk of a core's access, its leaf's A and D set where the access may go on. -/
def execPageWalk (core : Nat) (va : DWord) (store : Bool) (s : State) : Out :=
  if 2 ^ 52 ≤ va.toNat then .next s
  else
    let ag := s.agent core
    let w := walkFrom s va.toNat 3 1 ag.table
    .next (match w.2 with
      | .fail _ _ => w.1
      | .leaf e level addr =>
        let sh := levelShift level
        let pa := e.ppn * 2 ^ 16 / 2 ^ sh * 2 ^ sh + va.toNat % 2 ^ sh
        let s := cacheXlate w.1 core ⟨ag.ctx, e.g, level, va.toNat / 2 ^ sh, e, addr⟩
        if s.permitted e pa (if store then needW else needR) then setAD s core addr e store else s)

/-! ## Invalidation -/

/-- INVDB (R206): a record address enters the FIFO of 16, or is held until a place frees; of a package that is up
(R317, R320). -/
def execInvdb (addr : DWord) (s : State) : Out :=
  .next (s.ifUp (fun s => if 16 ≤ s.invFifo.length then { s with invHeld := s.invHeld ++ [addr] }
    else { s with invFifo := s.invFifo ++ [addr] }))

/-- The fields of an invalidation record. One whose VA lies above the 52 bits of an address is malformed like a
misaligned one (DEDUCED, log entry 70). -/
structure InvRecord where
  va : Nat
  len : Nat
  ctx : Nat
  allCtx : Bool
  glb : Bool
  bad : Bool
  cw : Nat

def parseInv (v : Nat) : InvRecord where
  va := bits v 63 0
  len := bits v 127 64
  ctx := bits v 143 128
  allCtx := bit v 144
  glb := bit v 145
  bad := bits v 63 0 % 65536 != 0 || bits v 63 52 != 0 || bits v 127 64 % 65536 != 0 || bits v 151 146 != 0 ||
    bits v 191 152 != 0
  cw := bits v 255 192

/-- A cached entry matches a record (R206). -/
def InvRecord.covers (r : InvRecord) (t : TlbEntry) : Bool :=
  let lo := t.page * 2 ^ levelShift t.level
  let up := lo + 2 ^ levelShift t.level
  let inRange := r.len == 0 || (lo < r.va + r.len && r.va < up)
  inRange && (if t.glob then r.glb || r.allCtx else r.allCtx || t.ctx == r.ctx)

/-- A posted write may have been translated through an entry that matches a record: whatever the size of its page. -/
def InvRecord.coversPosted (r : InvRecord) (p : Posted) : Bool :=
  r.covers ⟨p.ctx, p.glob, 1, p.va.toNat / 2 ^ 40, 0, 0⟩

/-- Posted writes that were translated through matching entries are performed (R205). -/
def finishPosted (s : State) (v : InvRecord) : State :=
  s.threads.foldl (fun s t =>
    if t.posted.any v.coversPosted then flushIf s t.core t.slot v.coversPosted else s) s

/-- INVALIDATION_COMPLETE (R205, R206): the oldest record takes effect and its completion word is written. The write is
a release side at system scope. The FIFO keeps the record's address, and the record is read here, as it then stands:
when the hardware reads it R206 does not say (DESIGN CHOICE, log entry 93). A record or a completion word that is not
aligned, or not in tier 0 of this package, is read and written where it stands, and the mark of a poisoned record
counts for nothing (DESIGN CHOICE, log entry 88). -/
def execInvalidationComplete (s : State) : Out :=
  .next (match s.invFifo with
    | [] => s
    | a :: rest =>
      let r := physRead s a.toNat 32
      let v := parseInv r.2.1
      let s := { r.1 with invFifo := rest ++ s.invHeld.take 1, invHeld := s.invHeld.drop 1 }
      let s := if v.bad then s
        else
          let s := finishPosted s v
          { s with
            cores := s.cores.map (fun k => { k with tlb := k.tlb.filter (fun t => !v.covers t) })
            xlate := s.xlate.filter (fun t => !v.covers t.2) }
      if v.cw = 0 then s else physWrite (borrowWriteBack s (fun _ => true)) v.cw (if v.bad then 2 else 1) 8)

/-! ## Channel retirement -/

/-- Bytes of a stack moved where L − 1 channels put them: the addresses stay, the dirty data of every L1 first. -/
def drainStack (s : State) (stack : Nat) : State :=
  s.cores.foldl (fun s r => drainCore s r.core (fun k =>
    !s.remote (32 * k) && paTier (32 * k) == 0 && paStack (32 * k) == stack)) s

/-- CHANNEL_RETIRE (R192): contents below (L − 1) × 2^31 keep their addresses; the rest of the stack becomes a hole. At
16 live channels the retirement is refused and the stack is reported failed. -/
def execChannelRetire (stack : Fin 16) (channel : Fin 32) (s : State) : Out :=
  let l := s.numChannels stack.val
  .next (if s.chanDead.contains (stack.val, channel.val) then s
    else if l ≤ 16 then { s with failedStacks := insertNat s.failedStacks stack.val }.notice (.stackFailed stack.val)
    else
      let s := drainStack s stack.val
      let gone := fun (pa : Nat) => !s.remote pa && paTier pa == 0 && paStack pa == stack.val &&
        (l - 1) * 2 ^ 31 ≤ paOff pa % 2 ^ 36
      { s with
        chanDead := s.chanDead ++ [(stack.val, channel.val)]
        mem := SMap.keep s.mem (fun a => !gone a)
        poison := s.poison.filter (fun k => !gone (32 * k))
        sliceLines := s.sliceLines.filter (fun e => e.1 / 32 != stack.val || paTier (512 * e.2) != 0)
        releases := s.releases.map (fun r =>
          if paTier r.addr = 0 ∧ paStack r.addr = stack.val then
            { r with slice := State.sliceOf { s with chanDead := s.chanDead ++ [(stack.val, channel.val)] } r.addr }
          else r) })

end Sys2Proof.Machine
end

