-- ==== Sys2Proof/Machine/Control.lean ====
section
/-! DEFINITION. Control flow: form C (R91, R92, R345, R379 to R384, R413, R426) and class B (R97 to R101, R383, R385,
R397, R414, R453, R462, R482, R488, R489, R496), with JOIN_RELEASE and JOIN_TIMEOUT. -/

namespace Sys2Proof.Machine

/-! ## Branches -/

/-- BRA (R379). -/
def execBra (k : Ctl) (g : Guard) (off : BitVec 24) (s : State) : Out :=
  .next (issueWord (.bra k g off) (fun c q s => .goto s ((s.thread c q).pc + off.signExtend 64))
    (fun _ _ s => .done s) s)

/-- BRM (R382): the first pair whose guard is true. -/
def execBrm (k : Ctl) (pairs : List (Guard × BitVec 13)) (s : State) : Out :=
  .next (issueWord (.brm k pairs) (fun c q s =>
    let t := s.thread c q
    match pairs.find? (fun p => Guard.holds p.1 t) with
    | some p => .goto s (t.pc + p.2.signExtend 64)
    | none => .done s) (fun _ _ s => .done s) s)

/-- BRX (R383). -/
def execBrx (w : FForm) (s : State) : Out :=
  .next (issueWord (.brx w) (fun c q s => .goto s (readPair s c q w.a)) (fun _ _ s => .done s) s)

/-! ## Calls (R100) -/

/-- A return entry: the suspension bits, the loop depth and the return address. -/
def returnEntry (t : Thread) (ra : DWord) : DWord :=
  let smask := (t.loops.mapIdx (fun i l => if l.susp then 2 ^ i else 0)).sum
  BitVec.ofNat 64 (smask * 2 ^ 60 + t.loops.length * 2 ^ 57 + ra.toNat % 2 ^ 57)

/-- The entry pushed; at depth 64 the oldest goes (R87). -/
def pushReturn (t : Thread) (e : DWord) : Thread :=
  { t with stack := (if 64 ≤ t.stack.length then t.stack.drop 1 else t.stack) ++ [e] }

/-- A call: the end word is evaluated, the entry pushed, every live level suspended. -/
def callTo (t : Thread) (target : DWord) : Thread :=
  let r := endWord 5 t
  let u := pushReturn r.1 (returnEntry r.1 r.2)
  { u with loops := u.loops.map (fun l => { l with susp := true }), pc := target }

/-- A thread makes a call; what no longer fits in its state spills to its record (R87). -/
def enter (s : State) (c q : Nat) (target : DWord) : State :=
  spillReturns (s.modThread c q (fun t => callTo t target)) c q (s.thread c q).stack.length

/-- CALL (R384). -/
def execCall (k : Ctl) (g : Guard) (off : BitVec 24) (s : State) : Out :=
  .next (issueWord (.call k g off) (fun c q s =>
    .moved (enter s c q ((s.thread c q).pc + off.signExtend 64))) (fun _ _ s => .done s) s)

/-- CALLX (R385). -/
def execCallx (w : FForm) (s : State) : Out :=
  .next (issueWord (.callx w) (fun c q s =>
    .moved (enter s c q (readPair s c q w.a))) (fun _ _ s => .done s) s)

/-! ## EXIT and RET -/

/-- The thread ends (R59, R397). -/
def endThread (t : Thread) : Thread :=
  { t with live := false, loops := [], shadow := [], shadowV := false, stack := [], latches := [], pend := [],
           wait := .none, tx := none }

/-- The end of a thread without an open transaction: every tag commits, a set release latch faults (R292), else it
ends. -/
def finishThread (c q : Nat) (s : State) : Eff :=
  let s := (commitAll s c q).1
  match (s.thread c q).rfLatch with
  | some k => .trap s ⟨cReleaseFailed, k, 7, none, 0, 0⟩
  | none => .moved (s.modThread c q endThread)

/-- EXIT (R397): the abort of an open transaction comes first. Where the word at its exit word is no TXE or faults, R244
has the thread raise that fault and R243 and R397 have it exit: the fault is taken and the thread does not exit (DESIGN
CHOICE, log entry 94). -/
def exitThread (c q : Nat) (s : State) : Eff :=
  match (s.thread c q).tx with
  | none => finishThread c q s
  | some tx =>
    let pc := (s.thread c q).pc
    let r := abortTry s c q tx txIllegal 0
    match r.2 with
    | some t => .trap r.1 t
    | none => finishThread c q (r.1.modThread c q (fun t => { t with pc := pc }))

/-- EXIT (R397). -/
def execExit (w : FForm) (s : State) : Out := .next (issueWord (.exit w) exitThread (fun _ _ s => .done s) s)

/-- RET (R100, R462). -/
def execRet (w : FForm) (s : State) : Out :=
  .next (issueWord (.ret w) (fun c q s =>
    let t := s.thread c q
    match t.stack.getLast? with
    | none => exitThread c q s
    | some e =>
      let ldep := bits e.toNat 59 57
      if t.loops.length ≠ ldep then .trap s (Trap.plain cLoopCall (16 * t.loops.length + ldep))
      else
        let s := s.modThread c q (fun t => { t with stack := t.stack.dropLast, loops := restoreSusp t.loops e })
        .goto (fillReturns s c q t.stack.length) (BitVec.ofNat 64 (bits e.toNat 56 0)))
    (fun _ _ s => .done s) s)

/-! ## Loops -/

/-- The window of a LOOP overlaps that of an active level (R92). -/
def windowClash (t : Thread) (base size : Nat) : Bool :=
  t.loops.any (fun l => !l.susp && l.wsize != 0 && l.wbase.toNat < base + size && base < l.wbase.toNat + l.wsize.toNat)

/-- LOOP (R92). A level without ROT takes a rotation base of 0, which R92 does not say (DESIGN CHOICE, log entry 71). -/
def execLoop (w : LoopForm) (s : State) : Out :=
  .next (issueWord (.loop w) (fun c q s =>
    let t := s.thread c q
    let level := w.lvl.toNat + 1
    let last := t.pc + w.endOff.setWidth 64
    let size := if w.rotb = 63 then 0 else w.rots.toNat + 1
    let base := if w.rotb = 63 then 0 else w.rotb.toNat
    let outside := (t.innermost.bind (fun i => t.loops[i]?)).any (fun l => l.last.toNat < last.toNat)
    if t.loops.length = 4 ∨ level ≠ t.loops.length + 1 then .trap s (Trap.plain cLoopDepth level)
    else if outside || (size != 0 && windowClash t base size) ||
        (w.stg != 0 && t.loops.any (fun l => !l.susp && l.stgm1 != 0)) then .trap s (Trap.plain cLoopNest level)
    else
      let n := (readWord s c q w.cnt).toNat
      if n = 0 then .moved (s.modThread c q (fun t => { t with pc := last + 1 }))
      else
        let l : LoopLevel := ⟨BitVec.ofNat 32 (Nat.min (n + w.stg.toNat) (2 ^ 32 - 1)), t.pc + 1, last, false, w.stg,
          BitVec.ofNat 6 base, BitVec.ofNat 5 size, 0⟩
        .moved (s.modThread c q (fun t => { t with
          loops := t.loops ++ [l]
          preds := if w.stg = 0 then t.preds else (t.preds &&& 0xFF#16) ||| 0x100#16
          pc := t.pc + 1 })))
    (fun _ _ s => .done s) s)

/-- LBRK (R98, R414). -/
def execLbrk (w : FForm) (s : State) : Out :=
  .next (issueWord (.lbrk w) (fun c q s =>
    let i := (w.sub.extractLsb' 0 2).toNat
    match (s.thread c q).loops[i]? with
    | some l =>
      if l.susp then .done s else .moved (s.modThread c q (fun t => { t.popLevel i with pc := l.last + 1 }))
    | none => .done s) (fun _ _ s => .done s) s)

/-! ## JOIN (R39 to R42, R413) -/

/-- JOIN: the thread enters its wait; the end of the clock releases it or finds it expired. -/
def execJoin (w : JoinForm) (s : State) : Out :=
  .next (issueWord (.join w) (fun c q s =>
    let mask := readWord s c q w.m ||| (1#32 <<< laneOf q)
    let expiry := s.clock + (readWord s c q w.t).toNat
    .hold (s.modThread c q (fun t => { t with wait := .join mask expiry w.p.toNat w.ar }))) (fun _ _ s => .done s) s)

/-- A thread that waits in a JOIN with this mask. -/
def joinsWith (m : Word) (t : Thread) : Bool :=
  match t.wait with
  | .join m' _ _ _ => t.live && m' == m
  | _ => false

/-- The slots that a mask names in the row of slot `q`. -/
def maskSlots (q : Nat) (m : Word) : List Nat :=
  ((List.range 32).filter (fun n => m.getLsbD n)).map (fun n => 32 * rowOf q + n)

/-- Every member of a waiting thread's mask has arrived (R39). -/
def joinComplete (s : State) (c q : Nat) : Bool :=
  match (s.thread c q).wait with
  | .join m _ _ _ => (s.thread c q).live && (maskSlots q m).all (fun u =>
      let t := s.thread c u
      !t.live || joinsWith m t)
  | _ => false

/-- A thread leaves its JOIN with a result. -/
def leaveJoin (s : State) (c : Nat) (r : Bool) (q : Nat) : State :=
  match (s.thread c q).wait with
  | .join _ _ p _ =>
    completeWord (s.modThread c q (fun t => { t.setPred p r with wait := .none })) c q
  | _ => s

/-- What JOIN.AR does for a member that is released: its posted writes reach their homes, and so the other members, who
share its L1 (R42). -/
def joinOrder (c : Nat) (s : State) (q : Nat) : State :=
  match (s.thread c q).wait with
  | .join _ _ _ true => flushPosted s c q
  | _ => s

/-- JOIN_RELEASE (R40): every member waiting with the mask is released, its predicate true. -/
def execJoinRelease (c q : Nat) (s : State) : Out :=
  match (s.thread c q).wait with
  | .join m _ _ _ =>
    .next (if joinComplete s c q then
      let us := (maskSlots q m).filter (fun u => joinsWith m (s.thread c u))
      us.foldl (fun s u => leaveJoin s c true u) (us.foldl (joinOrder c) s) else s)
  | _ => .next s

/-- JOIN_TIMEOUT (R41): a member not released by the end of its expiry clock leaves, its predicate false. An arrival
in that clock comes first. -/
def execJoinTimeout (c q : Nat) (s : State) : Out :=
  match (s.thread c q).wait with
  | .join _ expiry _ _ =>
    .next (if (s.thread c q).live && (expiry < s.clock || (expiry == s.clock && s.turns.isEmpty)) && !joinComplete s c q
      then leaveJoin s c false q else s)
  | _ => .next s

/-! ## Priorities and traps -/

/-- PRIO (R52, R453): of one party the lowest slot of each role writes; the clock's end makes it visible. -/
def execPrio (w : FForm) (s : State) : Out :=
  let slots := match s.actor with
    | .party c slots => slots.map (fun q => (q, (s.thread c q).role))
    | _ => []
  let acting := actingSlots (.prio w) s
  .next (issueWord (.prio w) (fun c q s =>
    let role := (s.thread c q).role
    let first := (acting.filter (fun u => slots.contains (u, role))).headD q
    if first = q then
      let v := (readWord s c q w.a).toNat % 16
      .done (s.modBlock c (fun b => { b with prioPend := b.prioPend ++ [(s.clock, role, v)] }))
    else .done s) (fun _ _ s => .done s) s)

/-- SVC (R482): a handler's request on a resolvable cause, or a service request; an end word is evaluated first. -/
def execSvc (w : IForm) (s : State) : Out :=
  .next (issueWord (.svc w) (fun c q s =>
    let t := s.thread c q
    let cause := t.tcause.toNat % 256
    let r := endWord 5 t
    let s := s.modThread c q (fun _ => r.1)
    if t.inTrap && resolvable cause then .moved (suspend s c q .handlerSvc cause t.taddr)
    else .moved (suspend s c q (.service r.2) 0 (w.imm.setWidth 64))) (fun _ _ s => .done s) s)

/-- TRAP (R488). -/
def execTrap (w : IForm) (s : State) : Out :=
  .next (issueWord (.trap w) (fun _ _ s => .trap s (Trap.plain cSwTrap w.imm.toNat)) (fun _ _ s => .done s) s)

/-- TRET (R489). -/
def execTret (w : FForm) (s : State) : Out :=
  .next (issueWord (.tret w) (fun c q s =>
    if (s.thread c q).inTrap then .moved (returnFromTrap s c q) else .trap s (Trap.plain cPriv 0))
    (fun _ _ s => .done s) s)

/-- YIELD (R496). -/
def execYield (w : FForm) (s : State) : Out :=
  .next (issueWord (.yield w) (fun c q s => .done (s.modThread c q (fun t => { t with yld := true })))
    (fun _ _ s => .done s) s)

end Sys2Proof.Machine
end

