-- ==== Sys2Proof/Machine/CrossLane.lean ====
section
/-! DEFINITION. Class 4: the cross-lane instructions (R43 to R48, R423, R424, R429, R454 to R457, R461, R472 to R474),
with the two events that end a wait at one, CROSS_LANE_EXECUTE and STALL_WATCHDOG. -/

namespace Sys2Proof.Machine

/-- An active member at the clock of execution: its home lane, its guard, and its operands A and B. -/
structure CLane where
  lane : Nat
  on : Bool
  a : Nat
  b : Word
  deriving DecidableEq, Repr

/-- What a member receives under its tag: D (none: empty), its predicate, its flags. -/
structure CRes where
  val : Option Nat
  pred : Bool
  flags : Flags
  deriving DecidableEq, Repr

def laneAt (ls : List CLane) (n : Nat) : Option CLane := ls.find? (fun x => x.lane == n)

/-- The member's own value with the predicate clear. -/
def ownValue (m : CLane) : CRes := ⟨some m.a, false, 0⟩

/-- The mask of lanes. -/
def laneMask (ls : List CLane) : Nat := ls.foldl (fun n x => n ||| 2 ^ x.lane) 0

/-! ## SHFL and PUSHL -/

/-- The source lane of SHFL, if it lies in the caller's sub-group (R46). -/
def shflSource (mode w lane : Nat) (d : Int) : Option Nat :=
  let base : Int := (lane - lane % w : Nat)
  let src : Option Int := match mode with
    | 0 => if 0 ≤ d ∧ d < w then some (base + d) else none
    | 1 => some (lane - d)
    | 2 => some (lane + d)
    | _ => if 0 ≤ d ∧ d < w then some ((lane ^^^ d.toNat : Nat) : Int) else none
  match src with
  | some x => if base ≤ x ∧ x < base + w then some x.toNat else none
  | none => none

def shflResult (w : FForm) (ls : List CLane) (m : CLane) : CRes :=
  match (shflSource w.mode (2 ^ w.wj) m.lane m.b.toInt).bind (laneAt ls) with
  | some x => ⟨some x.a, true, 0⟩
  | none => ownValue m

/-- PUSHL (R47, R457): the highest-numbered sender wins. -/
def pushlResult (w : FForm) (ls : List CLane) (m : CLane) : CRes :=
  let from' := ls.filter (fun x => x.on && shflSource 0 (2 ^ w.wj) x.lane x.b.toInt == some m.lane)
  ⟨from'.getLast?.map (·.a), 1 < from'.length, 0⟩

/-! ## VOTE, MATCH and REDL -/

def voteResult (w : FForm) (ls : List CLane) (_ : CLane) : CRes :=
  let p := ls.filter (·.on)
  let ballot := laneMask (p.filter (fun x => x.a != 0))
  ⟨some ballot, (match w.mode with
    | 0 => ballot != 0
    | 1 => ballot == laneMask p
    | _ => ballot == 0 || ballot == laneMask p), 0⟩

def matchResult (w : FForm) (ls : List CLane) (m : CLane) : CRes :=
  let p := ls.filter (·.on)
  if w.mode = 0 then
    let same := p.filter (fun x => x.a == m.a)
    ⟨some (laneMask same), 1 < same.length, 0⟩
  else
    let all := p.all (fun x => x.a == m.a)
    ⟨some (if all then laneMask p else 0), all, 0⟩

/-- One step of REDL's chain (R461). -/
def redlOp (w : FForm) (x y : Nat) : Nat × Flags :=
  match w.mode with
  | 0 => if w.ty = .f32 then fAdd fmtF32 .rne (fmtF32.decode x) (fmtF32.decode y) else ((x + y) % 2 ^ w.ty.bits, 0)
  | 1 => if w.ty = .f32 then (fMin fmtF32 x y, 0) else (if tyValue w.ty y < tyValue w.ty x then y else x, 0)
  | 2 => if w.ty = .f32 then (fMax fmtF32 x y, 0) else (if tyValue w.ty x < tyValue w.ty y then y else x, 0)
  | 3 => (x &&& y, 0)
  | 4 => (x ||| y, 0)
  | _ => (x ^^^ y, 0)

def redlResult (w : FForm) (ls : List CLane) (_ : CLane) : CRes :=
  match ls.filter (·.on) with
  | [] => ⟨none, false, 0⟩
  | x :: r =>
    let y := r.foldl (fun (acc : Nat × Flags) u => let z := redlOp w acc.1 u.a; (z.1, acc.2 ||| z.2)) (x.a, 0)
    ⟨some y.1, false, y.2⟩

/-! ## The Benes network (R454, R455) -/

/-- The output line of an input line of sub-network `u` of size 2^(m+1), whose first stage is `st`. -/
def benesRoute (word : BitVec 144) : Nat → Nat → Nat → Nat → Nat
  | 0, st, u, x => if word.getLsbD (16 * st + u) then 1 - x else x
  | m + 1, st, u, x =>
    let k := x / 2
    let lower : Bool := (x % 2 == 1) != word.getLsbD (16 * st + u * 2 ^ (m + 1) + k)
    let y := benesRoute word m (st + 1) (2 * u + b2n lower) k
    2 * y + b2n (lower != word.getLsbD (16 * (8 - st) + u * 2 ^ (m + 1) + y))

/-- The destination lane of a source lane under a control word. -/
def projDest (word : BitVec 144) (x : Nat) : Nat := benesRoute word 4 0 0 x

/-- One loop of the looping algorithm, from input `x`, which goes up: `perm` maps inputs to outputs, `acc` lists the
inputs that go up. -/
def benesLoop (perm : List Nat) : Nat → Nat → List Nat → List Nat
  | 0, _, acc => acc
  | fuel + 1, x, acc =>
    if acc.contains x then acc
    else
      let partner := perm.getD x 0 ^^^ 1
      let down := perm.findIdx (· == partner)
      benesLoop perm fuel (down ^^^ 1) (x :: acc)

/-- The inputs that go to the upper half: every loop starts at the lowest input not yet routed, straight. -/
def benesUps (perm : List Nat) : List Nat :=
  (List.range (perm.length / 2)).foldl (fun acc k =>
    if acc.contains (2 * k) || acc.contains (2 * k + 1) then acc else benesLoop perm perm.length (2 * k) acc) []

/-- The control word that routes a permutation through sub-network `u` of size 2^(m+1), as a number. -/
def benesBuild : Nat → Nat → Nat → List Nat → Nat
  | 0, st, u, perm => if perm.getD 0 0 = 1 then 2 ^ (16 * st + u) else 0
  | m + 1, st, u, perm =>
    let ups := benesUps perm
    let ks := List.range (2 ^ (m + 1))
    let upIn := fun (k : Nat) => if ups.contains (2 * k) then 2 * k else 2 * k + 1
    let first := (ks.filter (fun k => upIn k == 2 * k + 1)).foldl (fun n k => n + 2 ^ (16 * st + u * 2 ^ (m + 1) + k)) 0
    let last := (ks.filter (fun j => !ups.contains (perm.findIdx (· == 2 * j)))).foldl
      (fun n j => n + 2 ^ (16 * (8 - st) + u * 2 ^ (m + 1) + j)) 0
    first + last + benesBuild m (st + 1) (2 * u) (ks.map (fun k => perm.getD (upIn k) 0 / 2)) +
      benesBuild m (st + 1) (2 * u + 1) (ks.map (fun k => perm.getD (upIn k ^^^ 1) 0 / 2))

/-- The request of a member is kept: no higher lane asks for the same source. -/
def projKept (ls : List CLane) (m : CLane) : Bool :=
  m.on && m.a < 32 && !ls.any (fun x => x.on && x.a == m.a && m.lane < x.lane)

/-- The source of every destination lane, the free lanes filled in ascending order (R455). -/
def projSources (ls : List CLane) : List Nat :=
  let free := (List.range 32).filter (fun x => !ls.any (fun m => projKept ls m && m.a == x))
  ((List.range 32).foldl (fun (acc : List Nat × List Nat) y =>
    match (laneAt ls y).filter (projKept ls) with
    | some m => (acc.1 ++ [m.a], acc.2)
    | none => (acc.1 ++ [acc.2.headD 0], acc.2.tail)) ([], free)).1

/-- The control word that PROJL builds. -/
def projWord (ls : List CLane) : BitVec 144 :=
  let src := projSources ls
  BitVec.ofNat 144 (benesBuild 4 0 0 ((List.range 32).map (fun x => src.findIdx (· == x))))

def projlResult (ls : List CLane) (m : CLane) : CRes := ⟨none, projKept ls m, 0⟩

def projResult (word : BitVec 144) (ls : List CLane) (m : CLane) : CRes :=
  match (List.range 32).find? (fun x => projDest word x == m.lane) with
  | some x => match laneAt ls x with
    | some y => ⟨some y.a, true, 0⟩
    | none => ownValue m
  | none => ownValue m

/-! ## Arrival and execution (R43) -/

/-- The projection register that a word names, of the team of slot `q`. -/
def projReg (w : FForm) (q : Nat) : Nat := 8 * quarterOf q + w.wj

/-- What each member receives; the block's projection registers are read in the clock of execution. -/
def crossResult (i : Instr) (b : Block) (q : Nat) (ls : List CLane) (m : CLane) : CRes :=
  match i with
  | .shfl w => shflResult w ls m
  | .pushl w => pushlResult w ls m
  | .vote w => voteResult w ls m
  | .matchLanes w => matchResult w ls m
  | .redl w => redlResult w ls m
  | .projl _ => projlResult ls m
  | .proj w => projResult (SMap.get b.proj (projReg w q)) ls m
  | _ => ⟨none, false, 0⟩

/-- The form of a cross-lane word. -/
def crossForm : Instr → Option FForm
  | .shfl w | .pushl w | .vote w | .matchLanes w | .redl w | .projl w | .proj w => some w
  | _ => none

/-- A thread arrives (R43): its tags commit, its guard and mask are read, or a fault is raised (R79, R286). -/
def crossArrive (i : Instr) (w : FForm) (c : Nat) (s : State) (q : Nat) : State :=
  let t := s.thread c q
  if !t.live then s
  else match resumeFault s c q with
  | some r => raiseFault r.1 c q r.2
  | none =>
    match threadDecodeFault (s.block c) t i with
    | some f => raiseFault s c q f
    | none =>
      let r := commitTags s c q (Ctl.tags w.ctl)
      match r.2 with
      | some p => raiseFault r.1 c q (resultTrap p)
      | none =>
        let t := r.1.thread c q
        let on := Guard.holds w.g t
        let lost := lostLatch t [w.useC 1]
        match (if on then lost else none) with
        | some n => raiseFault r.1 c q (Trap.plain cLatchLost n)
        | none =>
          if on && readsStruck t [w.useC 1] then raiseFault r.1 c q ⟨cPoison, 2, 6, none, 0, 0⟩ else
          let own : Word := 1#32 <<< laneOf q
          let m := if lost.isSome then own else readWord r.1 c q w.c ||| own
          r.1.modThread c q (fun t => { t with wait := .cross i m on r.1.clock })

/-- The slot of a lane in the row of slot `q`. -/
def rowSlot (q lane : Nat) : Nat := 32 * rowOf q + lane

/-- The lanes that a mask names. -/
def maskLanes (m : Word) : List Nat := (List.range 32).filter (fun n => m.getLsbD n)

/-- A member has arrived at the same word with the same mask (R43). -/
def crossActive (s : State) (c q : Nat) (m : Word) (lane : Nat) : Bool :=
  let u := s.thread c (rowSlot q lane)
  u.live && u.susp == .none && !u.frozen && u.pc == (s.thread c q).pc &&
    (match u.wait with
     | .cross _ m' _ _ => m' == m
     | _ => false)

/-- A member has exited, or its slot holds no thread (R43). -/
def crossAbsent (s : State) (c q : Nat) (lane : Nat) : Bool := !(s.thread c (rowSlot q lane)).live

/-- Every member of the mask is active or absent (R43). -/
def crossReady (s : State) (c q : Nat) : Bool :=
  match (s.thread c q).wait with
  | .cross _ m _ _ => (maskLanes m).all (fun n => crossActive s c q m n || crossAbsent s c q n)
  | _ => false

/-- The active members of the mask of a waiting thread, as slots. -/
def crossGroup (s : State) (c q : Nat) : List Nat :=
  match (s.thread c q).wait with
  | .cross _ m _ _ => ((maskLanes m).filter (fun n => crossActive s c q m n)).map (rowSlot q)
  | _ => []

def waitsOn (t : Thread) : Bool :=
  match t.wait with
  | .cross _ _ on _ => on
  | _ => false

/-- The first latch operand other than the mask that a member has lost. -/
def crossLost (s : State) (c : Nat) (i : Instr) (q : Nat) : Option Nat :=
  lostLatch (s.thread c q) (i.uses.filter (fun u => u.field != 3))

/-- What a member under a true guard meets when its operands are read: a lost latch (R79) or a register that an error
has struck since (R286). -/
def crossFault (s : State) (c : Nat) (i : Instr) (q : Nat) : Option Trap :=
  if !waitsOn (s.thread c q) then none
  else match crossLost s c i q with
    | some n => some (Trap.plain cLatchLost n)
    | none =>
      if readsStruck (s.thread c q) (i.uses.filter (fun u => u.field != 3)) then some ⟨cPoison, 2, 6, none, 0, 0⟩ else none

/-- A member's operands. A member under a false guard supplies its A all the same (R424); where that is a lost latch it
is a free value (log entry 7). -/
def crossLane (s : State) (c : Nat) (w : FForm) (q : Nat) : CLane :=
  let a := if (lostLatch (s.thread c q) [w.useA w.ty.regs]).isSome then (Config.freeWord (s.freeCtr + laneOf q)).toNat
    else readSrc s c q w.a w.ty.regs
  ⟨laneOf q, waitsOn (s.thread c q), a, readWord s c q w.b⟩

/-- One member's tag, and the end of its wait; a block that another member's fault has killed does nothing more. -/
def crossFinish (b : Block) (i : Instr) (w : FForm) (c : Nat) (ls : List CLane) (s : State) (q : Nat) : State :=
  let t := s.thread c q
  if !t.live then s else
  let s := startIssue s c q w.ctl
  let tag := w.ctl.alloc.toNat
  let p : Pending := match (ls.find? (fun x => x.lane == laneOf q && x.on)) with
    | some m =>
      let r := crossResult i b q ls m
      let ds := match r.val with
        | some v => splitValue (dstRegs t w.d w.ty.regs) v
        | none => []
      ⟨tag, ds, some (w.prd, r.pred), r.flags, false, none, none, t.pc, 0, 0, w.d.code, w.ty.regs - 1, 0, false⟩
    | none => emptyResult tag t.pc w.d w.ty.regs
  let s := allocTag s c q p
  completeWord (s.modThread c q (fun t => { t with wait := .none })) c q

/-- A member that could not read its operands in the clock of execution takes its fault. -/
def crossRaise (before : State) (i : Instr) (w : FForm) (c : Nat) (s : State) (q : Nat) : State :=
  match crossFault before c i q with
  | some f => if (s.thread c q).live then raiseFault (startIssue s c q w.ctl) c q f else s
  | none => s

/-- The instruction executes for its active members in one clock. A member whose other operands cannot be read faults
and adds nothing. -/
def crossRun (i : Instr) (w : FForm) (c : Nat) (group : List Nat) (s : State) : State :=
  let good := group.filter (fun q => (crossFault s c i q).isNone)
  let ls := good.map (crossLane s c w)
  let s := group.foldl (crossRaise s i w c) { s with freeCtr := s.freeCtr + 32 }
  let b := s.block c
  let s := match i with
    | .projl w => match good with
      | q :: _ => s.modBlock c (fun b => { b with proj := SMap.set b.proj (projReg w q) (projWord ls) })
      | [] => s
    | _ => s
  good.foldl (crossFinish b i w c ls) s

/-- A cross-lane word given to a party: those of its threads that have not arrived do; then every member group that is
complete executes. -/
def crossWord (i : Instr) (w : FForm) (s : State) : State :=
  match s.actor with
  | .party c slots =>
    let s := slots.foldl (fun s q => match (s.thread c q).wait with
      | .cross _ _ _ _ => s
      | _ => crossArrive i w c s q) s
    slots.foldl (fun s q => if crossReady s c q then crossRun i w c (crossGroup s c q) s else s) s
  | _ => s

/-! ## The instructions -/

/-- MATCH (R429). -/
def execMatchLanes (w : FForm) (s : State) : Out := .next (crossWord (.matchLanes w) w s)

/-- PROJ (R456). -/
def execProj (w : FForm) (s : State) : Out := .next (crossWord (.proj w) w s)

/-- PROJL (R455). -/
def execProjl (w : FForm) (s : State) : Out := .next (crossWord (.projl w) w s)

/-- PUSHL (R457). -/
def execPushl (w : FForm) (s : State) : Out := .next (crossWord (.pushl w) w s)

/-- REDL (R461). -/
def execRedl (w : FForm) (s : State) : Out := .next (crossWord (.redl w) w s)

/-- SHFL (R473). -/
def execShfl (w : FForm) (s : State) : Out := .next (crossWord (.shfl w) w s)

/-- VOTE (R474). -/
def execVote (w : FForm) (s : State) : Out := .next (crossWord (.vote w) w s)

/-- CROSS_LANE_EXECUTE (R43): a waiting thread's member group executes once it is complete. -/
def execCrossLaneExecute (c q : Nat) (s : State) : Out :=
  match (s.thread c q).wait with
  | .cross i _ _ _ => match crossForm i with
    | some w => .next (if crossReady s c q then crossRun i w c (crossGroup s c q) s else s)
    | none => .next s
  | _ => .next s

/-- STALL_WATCHDOG (R45): a thread that R43 has held for 2^20 clocks faults; EXTRA is its mask (R272). One whose group
is complete is held no longer. -/
def execStallWatchdog (c q : Nat) (s : State) : Out :=
  match (s.thread c q).wait with
  | .cross _ m _ since =>
    .next (if since + 2 ^ 20 ≤ s.clock && !crossReady s c q then raiseFault s c q (Trap.plain cStallWatchdog m.toNat) else s)
  | _ => .next s

end Sys2Proof.Machine
end

