-- ==== Sys2Proof/Machine/Residue.lean ====
section
/-! DEFINITION. Residue arithmetic (R109, R155 to R178, R288, R463 to R466): channels and profiles, range tags, lane
maps, quads, reverse conversion, configuration and status, and class A; leaky-bucket counters with their marks (R288,
R289), which RNSR drives too. -/

namespace Sys2Proof.Machine

/-! ## Channels and profiles -/

/-- The modulus of a channel (R109). -/
def modulus (c : Nat) : Nat := [251, 241, 239, 233, 229, 227, 223, 211, 256, 255].getD c 1

/-- The channel of a slot (R155). -/
def slotChannel (d k : Nat) : Nat := if k < d then k else 8 + (k - d)

/-- M_D, the product of the data moduli. -/
def dataProduct (d : Nat) : Nat := ((List.range d).map modulus).prod

/-- x lies in the legitimate range of profile d (R156). -/
def legitimate (d : Nat) (x : Int) : Bool := 2 * x.natAbs ≤ dataProduct d - 1

def setBits (n : Nat) (v : Nat) : List Nat := (List.range n).filter (bit v)

/-- The groups not fenced on a core, ascending (R158). -/
def liveGroups (r : CoreRec) : List Nat := (List.range 10).filter (fun g => !r.lgFence.getLsbD g)

def liveUnits (r : CoreRec) : Nat := ((List.range 10).filter (fun g => !r.unitFence.getLsbD g)).length

/-- K_eff of a profile on a core (R158). -/
def kEff (r : CoreRec) (d : Nat) : Nat := 6 * (liveGroups r).length / (d + 2)

/-- The channel set of a profile on a core, as a mask (R176); 0 where the profile is unavailable. A block that resumes
on such a core with that profile configured goes on with the empty set (DESIGN CHOICE, log entry 72). -/
def channelSet (r : CoreRec) (d : Nat) : Nat :=
  if d + 2 ≤ liveUnits r then 2 ^ d - 1 + 0x300
  else if d + 1 = liveUnits r then 2 ^ (d - 1) - 1 + 0x300
  else 0

/-- A profile that a core can run (R158, R172, R177). -/
def profileOk (r : CoreRec) (d : Nat) : Bool := 2 ≤ d && d ≤ 8 && kEff r d != 0 && channelSet r d != 0

/-! ## Range tags (R160) -/

def tagOver : Nat := 0xFF

/-- A tag byte as it is read: codes above 63 are OVER. -/
def tagRead (t : Nat) : Nat := if t ≤ 63 then t else tagOver

/-- The tag of a value under a profile. -/
def tagOf (d : Nat) (x : Int) : Nat := if legitimate d x then bitLen x.natAbs else tagOver

def tagMax (ts : List Nat) : Nat := ts.foldl (fun a t => Nat.max a (tagRead t)) 0

/-! ## Reverse conversion (R167, R168) -/

/-- The inverse of a modulo m, for coprime a. -/
def invMod (a m : Nat) : Nat := ((List.range m).find? (fun x => a * x % m == 1 % m)).getD 0

/-- The residue system solved over some channels, in 0 to the product − 1. -/
def crtNat (cs : List Nat) (v : Nat → Nat) : Nat × Nat :=
  cs.foldl (fun (acc : Nat × Nat) c =>
    let m := modulus c
    let diff := (v c % m + m - acc.1 % m) % m
    (acc.1 + acc.2 * (diff * invMod (acc.2 % m) m % m), acc.2 * m)) (0, 1)

/-- CrtSigned: the representative nearest zero. -/
def crtSigned (cs : List Nat) (v : Nat → Nat) : Int :=
  let r := crtNat cs v
  if r.1 ≤ (r.2 + 1) / 2 - 1 then (r.1 : Int) else (r.1 : Int) - r.2

/-- What reverse conversion finds: OUT, the value, the located channel, NOLOC. -/
structure RnsResult where
  out : Nat
  val : Int
  ch : Nat
  noloc : Bool
  deriving DecidableEq, Repr

/-- Reverse conversion of residues with profile d and a channel set (R168). -/
def reverse (d set : Nat) (guarded : Bool) (v : Nat → Nat) : RnsResult :=
  let cs := setBits 10 set
  if guarded then ⟨3, clampInt (crtSigned cs v) (-(2 ^ 63 - 1)) (2 ^ 63 - 1), 0, false⟩
  else
    let x := crtSigned cs v
    if legitimate d x then ⟨0, x, 0, false⟩
    else if cs.length = d + 1 then ⟨2, x, 0, true⟩
    else
      let cand := cs.filterMap (fun c =>
        let y := crtSigned (cs.filter (· != c)) v
        if legitimate d y then some (c, y) else none)
      match cand with
      | [r] => ⟨1, r.2, r.1, false⟩
      | _ => ⟨2, x, 0, false⟩

/-- The outcome word (R169). -/
def outcomeWord (r : RnsResult) (guarded taken : Bool) : Word :=
  BitVec.ofNat 32 (b2n r.noloc * 2 ^ 9 + b2n guarded * 2 ^ 8 + r.ch * 2 ^ 4 + b2n taken * 2 ^ 3 + r.out)

/-- The range guard (R167). -/
def guarded (d k ea eb : Nat) : Bool :=
  tagRead ea == tagOver || tagRead eb == tagOver || dataProduct d ≤ 2 * k * 2 ^ (tagRead ea + tagRead eb)

/-! ## Quads (R163 to R165) -/

/-- The residue state of the quad that accumulator n belongs to. -/
def Block.quad? (b : Block) (n : Nat) : Option Quad := b.quads.find? (fun x => x.q == n / 4)

/-- The place of an element's mantissa. -/
def accKey (a i j : Nat) : Nat := 1024 * a + 32 * i + j

/-- The residue of channel c of element (i, j) of a quad. -/
def quadResidue (b : Block) (q i j c : Nat) : Nat :=
  (SMap.get b.accM (accKey (4 * q + c / 3) i j)).toNat / 2 ^ (16 * (c % 3)) % 65536

/-- The quad of an accumulator leaves residue mode (R165): E 0, the auto bit set, mantissas kept. -/
def leaveQuad (b : Block) (n : Nat) : Block :=
  if (b.quad? n).isSome then
    { b with
      quads := b.quads.filter (fun x => x.q != n / 4)
      accE := SMap.keep b.accE (fun a => a / 4 != n / 4)
      accSt := SMap.keep b.accSt (fun k => k / 4096 != n / 4)
      accFixed := b.accFixed.filter (fun a => a / 4 != n / 4) }
  else b

/-- MZERO.RNS on quad q (R165). -/
def zeroQuad (b : Block) (r : CoreRec) (q d : Nat) : Block :=
  { b with
    quads := ⟨q, d, BitVec.ofNat 10 (channelSet r d), 0, [], []⟩ :: b.quads.filter (fun x => x.q != q)
    accM := SMap.keep b.accM (fun k => k / 4096 != q)
    accSt := SMap.keep b.accSt (fun k => k / 4096 != q) }

/-! ## Leaky-bucket counters (R288, R289) -/

def counterKindCode : CounterKind → Nat
  | .bank => 1
  | .lane => 2
  | .cohort => 3
  | .laneGroup => 4

def State.leakOf (s : State) (k : CounterKind) : Nat × Nat :=
  ((s.leakSet.find? (fun r => r.1 == k)).map (·.2)).getD (1, 0)

def State.counter (s : State) (k : CounterKind) (i : Nat) : Nat :=
  ((s.counters.find? (fun r => r.kind == k && r.inst == i)).map (·.value)).getD 0

def State.setCounter (s : State) (k : CounterKind) (i v : Nat) : State :=
  let rest := s.counters.filter (fun r => !(r.kind == k && r.inst == i))
  { s with counters := if v = 0 then rest else rest ++ [⟨k, i, v⟩] }

/-- What a mark leads to besides its event: the core whose lane group is marked runs its self-test at the block's
departure; the second marked bank of a channel retires it. Banks are numbered by stack, channel, bank (log entry 13). -/
def noteMark (s : State) (k : CounterKind) (i : Nat) : State :=
  match k with
  | .laneGroup => s.modCore (i / 10) (fun r => { r with lgMarked := r.lgMarked ||| (1#10 <<< (i % 10)) })
  | .bank =>
    let second := s.markedBanks.any (fun j => j != i && j / 32 == i / 32)
    let s := { s with markedBanks := insertNat s.markedBanks i }
    if second then s.post (.channelRetire (Fin.ofNat 16 (i / 1024)) (Fin.ofNat 32 (i / 32))) else s
  | _ => s

/-- One event at a counter, and its mark. -/
def countEvent (s : State) (k : CounterKind) (i : Nat) (corepos : Nat) : State :=
  let v := Nat.min 0xFFFF (s.counter k i + 1)
  let mark := (s.leakOf k).2
  if mark ≤ v then
    let data : BitVec 128 := BitVec.ofNat 128 (counterKindCode k + i * 2 ^ 16 + corepos * 2 ^ 32 + s.timeUs * 2 ^ 64)
    (noteMark (s.setCounter k i (mark / 2)) k i).notice (.counterEvent data)
  else s.setCounter k i v

/-- The fences that have been ordered, and those that have been lifted, take effect on a core (R175). -/
def CoreRec.takeOrders (r : CoreRec) : CoreRec :=
  { r with
    lgFence := (r.lgFence &&& ~~~r.lgLifted) ||| r.lgOrdered
    unitFence := (r.unitFence &&& ~~~r.unitLifted) ||| r.unitOrdered
    lgOrdered := 0
    unitOrdered := 0
    lgLifted := 0
    unitLifted := 0 }

/-- An order to fence lane groups and channel reduction units, or to lift their fences. -/
def CoreRec.orderFence (r : CoreRec) (lift : Bool) (lg un : BitVec 10) : CoreRec :=
  if lift then
    { r with
      lgLifted := r.lgLifted ||| lg, unitLifted := r.unitLifted ||| un
      lgOrdered := r.lgOrdered &&& ~~~lg, unitOrdered := r.unitOrdered &&& ~~~un }
  else
    { r with
      lgOrdered := r.lgOrdered ||| lg, unitOrdered := r.unitOrdered ||| un
      lgLifted := r.lgLifted &&& ~~~lg, unitLifted := r.unitLifted &&& ~~~un }

/-- Firmware's or the package kernel's order takes effect when the block bound on the core leaves it, and at once where
none is or it has retired (R175; that a lift waits like a fence: log entry 64). -/
def orderFences (s : State) (c : Nat) (lift : Bool) (lg un : BitVec 10) : State :=
  s.modCore c (fun r =>
    let r := r.orderFence lift lg un
    if (s.block? c).any (fun b => !b.retired) then r else r.takeOrders)

/-- The defects of a core's residue array that have struck by a clock (R289, log entry 75). -/
def CoreRec.struck (r : CoreRec) (now : Nat) : CoreRec :=
  { r with
    laneDefects := r.laneDefects.filter (fun d => d.since ≤ now)
    unitDefects := r.unitDefects.filter (fun d => d.since ≤ now) }

/-- The lane groups and the channel reduction units that the residue self-test finds at fault (R289). -/
def CoreRec.faultyGroups (r : CoreRec) : BitVec 10 := r.laneDefects.foldl (fun m d => m ||| (1#10 <<< (d.lane / 6))) 0
def CoreRec.faultyUnits (r : CoreRec) : BitVec 10 := r.unitDefects.foldl (fun m d => m ||| (1#10 <<< d.unit)) 0

/-- What its defects add to the product on a logical lane for an output column (R158), and to the sum of a slot, which
the unit of its rank among the unfenced ones reduces (log entry 75). -/
def CoreRec.laneError (r : CoreRec) (l j : Nat) : Nat :=
  let p := 6 * (liveGroups r).getD (l / 6) 10 + l % 6
  ((r.laneDefects.filter (fun d => d.lane == p && d.column == j)).map (·.add)).sum
def CoreRec.unitError (r : CoreRec) (k : Nat) : Nat :=
  ((r.unitDefects.filter (fun d => ((List.range 10).filter (fun u => !r.unitFence.getLsbD u))[k]? == some d.unit)).map
    (·.add)).sum

/-- The unfenced lane groups that carry a lane of a channel in a core's lane map (R158, R170). -/
def channelGroups (r : CoreRec) (d c : Nat) : List Nat :=
  let ke := kEff r d
  let slot := if c < 8 then c else d + (c - 8)
  ((List.range ke).filterMap (fun t => (liveGroups r)[(slot * ke + t) / 6]?)).dedup

/-- A FIXED outcome of a channel counts at each group that carries it now. -/
def countFixed (s : State) (c d ch : Nat) : State :=
  (channelGroups (s.coreRec c) d ch).foldl (fun s g => countEvent s .laneGroup (10 * c + g) (corePos c).toNat) s

/-! ## RNSCFG and RNSCHK -/

/-- The profile in force for a thread, 0 for none. -/
def profileOf (s : State) (c q : Nat) : Nat := bits ((s.block c).rnsAt s.clock (some q)).toNat 3 0

/-- FORMAT of a residue fault that concerns no page or tile (R272). -/
def rnsFormat (geo : Nat) (kind : Nat := 0) : Trap := ⟨cFormat, 0x1C + 2 ^ 8 * geo, kind, none, 0, 0⟩

/-- The fields of an RNSCFG word (R172); its reserved bits are dropped (R8; DEDUCED, log entry 53). -/
def rnsWord (v : Word) : Word := v &&& 0xFFF00F8F#32

/-- RNSCFG.SET (R172, R463): of one party the lowest slot whose word is accepted wins. Each thread whose own word was
accepted is an issuing thread, and sees the winner's word at once (R174; DESIGN CHOICE, log entry 54). -/
def execRnscfgSet (w : FForm) (s : State) : Out :=
  let words := match s.actor with
    | .party c _ => (actingSlots (.rnscfgSet w) s).map (fun q =>
        (q, readWord (commitTags s c q (Ctl.tags w.ctl)).1 c q w.a))
    | _ => []
  .next (issueWord (.rnscfgSet w) (fun c q s =>
    let v := readWord s c q w.a
    let d := bits v.toNat 3 0
    if !profileOk (s.coreRec c) d then .trap s (rnsFormat d)
    else
      let ok := words.filter (fun x => profileOk (s.coreRec c) (bits x.2.toNat 3 0))
      .done (s.modBlock c (fun b => { b with
        rnsPend := b.rnsPend ++ [⟨(rnsWord ((ok.map (·.2)).headD v)).setWidth 64, s.clock, quarterOf q, q⟩]
        fixCnt := 0
        fixSeen := false
        misSeen := false
        rngSeen := false }))) (fun _ _ s => .done s) s)

/-- The status record (R173). -/
def rnsRecord (s : State) (c q : Nat) : Nat :=
  let b := s.block c
  let r := s.coreRec c
  let cfg := (b.rnsAt s.clock (some q)).toNat
  let d := bits cfg 3 0
  b.fixCnt.toNat * 2 ^ 96 + b2n b.rngSeen * 2 ^ 82 + b2n b.misSeen * 2 ^ 81 + b2n b.fixSeen * 2 ^ 80 +
  liveUnits r * 2 ^ 76 + r.lgFence.toNat * 2 ^ 66 + (if d = 0 then 0 else channelSet r d) * 2 ^ 56 +
  (if d = 0 then 0 else kEff r d) * 2 ^ 48 + cfg

/-- RNSCFG.GET (R463). -/
def execRnscfgGet (w : FForm) (s : State) : Out :=
  .next (issueWord (.rnscfgGet w) (fun c q s =>
    let a := (readWord s c q w.a).toNat
    let va : DWord := BitVec.ofNat 64 a
    if a % 16 ≠ 0 then .trap s (Trap.at cMisaligned 16 5 va)
    else if 0x1FFFF0 < a then .trap s (Trap.at cPerm 5 5 va)
    else .done (xWrite s c a (leBytes (rnsRecord s c q) 16))) (fun _ _ s => .done s) s)

/-- The residue of a channel in a residue group (R69). -/
def groupResidue (v : Nat) (c : Nat) : Nat := v / 2 ^ (8 * c) % 256

/-- RNSCHK (R171, R464). -/
def execRnschk (w : FForm) (s : State) : Out :=
  .next (issueWord (.rnschk w) (fun c q s =>
    let d := profileOf s c q
    if d = 0 then .trap s (rnsFormat 0)
    else
      let v := readSrc s c q w.a 3
      let r := reverse d (channelSet (s.coreRec c) d) false (groupResidue v)
      let t := s.thread c q
      .done (allocTag s c q ⟨w.ctl.alloc.toNat, splitValue (dstRegs t w.d 1) (outcomeWord r false false).toNat, none, 0,
        false, none, none, t.pc, 0, 0, w.d.code, 0, 0, false⟩))
    (fun c q s => .done (allocTag s c q (emptyResult w.ctl.alloc.toNat (s.thread c q).pc w.d 1))) s)

/-! ## RNSF (R161, R465) -/

/-- The bytes of a forward conversion, in the order in which they are written. -/
def forwardBytes (d : Nat) (x : Int) : List Byte :=
  (List.range (d + 2)).map (fun k => BitVec.ofInt 8 (x % (modulus (slotChannel d k) : Int))) ++
    [BitVec.ofNat 8 (tagOf d x)]

/-- RNSF. -/
def execRnsf (w : FForm) (s : State) : Out :=
  .next (issueWord (.rnsf w) (fun c q s =>
    let d := profileOf s c q
    if d = 0 then .trap s (rnsFormat 0 5)
    else
      let x := tyValue w.ty (readSrc s c q w.a w.ty.regs)
      let addrs := (List.range (d + 3)).map (fun k =>
        ((readWord s c q w.b) + BitVec.ofNat 32 k * (readWord s c q w.c)).toNat)
      match addrs.find? (fun a => 0x1FFFFF < a) with
      | some a => .trap s (Trap.at cPerm 5 5 (BitVec.ofNat 64 a))
      | none => .done ((addrs.zip (forwardBytes d x)).foldl (fun s p => xWrite s c p.1 [p.2]) s))
    (fun _ _ s => .done s) s)

/-! ## RNSR (R170, R466) -/

/-- What the policy makes of an outcome: the state, and the value and TAKEN, or the fault. A clamp under INT = 0 whose
FP32 bound lies outside I64 saturates, as R122's conversion does (DEDUCED, log entry 55). -/
def applyPolicy (s : State) (c q : Nat) (cfg : Nat) (r : RnsResult) (g : Bool) (d : Nat) :
    State × Except Trap (Int × Bool) :=
  let word := fun (taken : Bool) => (outcomeWord r g taken).toNat
  match r.out with
  | 0 => (s, .ok (r.val, false))
  | 1 =>
    let s := countFixed s c d r.ch
    match bits cfg 8 7 with
    | 0 => (s, .ok (r.val, false))
    | 1 => (s.modBlock c (fun b => { b with
        fixCnt := if b.fixCnt = 0xFFFFFFFF#32 then b.fixCnt else b.fixCnt + 1, fixSeen := true }), .ok (r.val, true))
    | _ => (s, .error (Trap.plain cRnsMismatch (word false)))
  | 2 =>
    let s := s.modBlock c (fun b => { b with misSeen := true })
    if bit cfg 9 then (s, .ok (-(2 ^ 63), true)) else (s, .error (Trap.plain cRnsMismatch (word false)))
  | _ =>
    let s := s.modBlock c (fun b => { b with rngSeen := true })
    match bits cfg 11 10 with
    | 0 => (s, .ok (r.val, true))
    | 2 =>
      let n := bits cfg 31 20
      let k := boundCheck s (cohortOf c) n true (intFVal r.val)
      let e := k.2.2
      match k.2.1 with
      | .pass => (k.1, .ok (r.val, false))
      | .flag => (k.1, .ok (r.val, true))
      | .trap => (k.1, .error (Trap.plain cBound (boundExtra n (laneOf q) 0)))
      | .clamp m =>
        let v : Int := if bndInt e then tyValue .i32 (if m then bndMax e else bndMin e)
          else (floatToInt .i64 (if m then .rd else .ru) (clampTarget e false m)).1
        (k.1, .ok (v, true))
    | _ => (s, .error (Trap.plain cRnsRange (word false)))

/-- RNSR. -/
def execRnsr (w : FForm) (s : State) : Out :=
  .next (issueWord (.rnsr w) (fun c q s =>
    let row := (readWord s c q w.a).toNat
    let b := s.block c
    let j := laneOf q
    match b.quad? w.num5 with
    | none => .trap s (rnsFormat 0)
    | some u =>
      if 31 < row then .trap s (rnsFormat u.d)
      else
        let g := guarded u.d u.ktotal.toNat (SMap.get u.ea row).toNat (SMap.get u.eb j).toNat
        let r := reverse u.d u.chset.toNat g (quadResidue b u.q row j)
        let p := applyPolicy s c q (b.rnsAt s.clock (some q)).toNat r g u.d
        match p.2 with
        | .error t => .trap p.1 t
        | .ok v =>
          let out := (outcomeWord r g v.2).toNat
          let t := p.1.thread c q
          let val := (BitVec.ofInt 64 v.1).toNat + out * 2 ^ 64
          .done (allocTag p.1 c q ⟨w.ctl.alloc.toNat, splitValue (dstRegs t w.d 4) val, none, 0, false, none, none, t.pc,
            0, 0, w.d.code, 3, 0, false⟩))
    (fun c q s => .done (allocTag s c q (emptyResult w.ctl.alloc.toNat (s.thread c q).pc w.d 4))) s)

end Sys2Proof.Machine
end

