-- ==== Sys2Proof/Machine/Matrix.lean ====
section
/-! DEFINITION. Class 9 and TLD: tiles, the W-buffer panel, accumulators (R123 to R127, R135 to R146), the bound-table
instruction (R376 to R378), and the matrix sequencer with its fetch (R131 to R134, R151, R152, R425 to R442). -/

namespace Sys2Proof.Machine

/-! ## Accumulators -/

/-- Sign(x) × RNE(|x| / 2^e) of m × 2^x (R125). -/
def roundWindow (m : Int) (x e : Int) : Int := signedM (m < 0) (roundAt .rne (m < 0) m.natAbs x e false).1

/-- An element as it is read and written: mantissa and special state (0 normal, 1 +∞, 2 −∞, 3 NaN). -/
structure AccElem where
  m : Int
  st : Nat
  deriving DecidableEq, Repr

def accElem (b : Block) (n k : Nat) : AccElem :=
  ⟨(SMap.get b.accM (1024 * n + k)).toInt, (SMap.get b.accSt (1024 * n + k)).toNat⟩

def accExp (b : Block) (n : Nat) : Int := (SMap.get b.accE n).toInt

def accAuto (b : Block) (n : Nat) : Bool := !b.accFixed.contains n

def setAccElem (b : Block) (n k : Nat) (x : AccElem) : Block :=
  { b with
    accM := SMap.set b.accM (1024 * n + k) (BitVec.ofInt 48 x.m)
    accSt := SMap.set b.accSt (1024 * n + k) (BitVec.ofNat 2 x.st) }

def setAccExp (b : Block) (n : Nat) (e : Int) (auto : Bool) : Block :=
  { b with
    accE := SMap.set b.accE n (BitVec.ofInt 16 e)
    accFixed := if auto then b.accFixed.filter (· != n) else insertNat b.accFixed n }

/-- Every element of an accumulator written, from index 0 up. -/
def setAccAll (b : Block) (n : Nat) (xs : List AccElem) : Block :=
  (xs.zip (List.range 1024)).foldl (fun b x => setAccElem b n x.2 x.1) b

/-- MZERO without RNS (R123, R445): an exponent, or none under AUTO. What E holds while the auto bit is set, R123 leaves
open: here 0 (DESIGN CHOICE, log entry 56). -/
def zeroAcc (b : Block) (n : Nat) (e : Option Word) : Block :=
  let b := leaveQuad b n
  let b := { b with
    accM := SMap.keep b.accM (fun k => k / 1024 != n)
    accSt := SMap.keep b.accSt (fun k => k / 1024 != n) }
  match e with
  | some v => setAccExp b n (v.extractLsb' 0 16).toInt false
  | none => setAccExp b n 0 true

/-- What one chunk brings to an element (R124, R127): the exact finite sum m × 2^e, the largest product exponent, and
the chunk's special state. -/
structure Chunk where
  m : Int
  e : Int
  top : Option Int
  spec : Nat
  deriving DecidableEq, Repr

/-- Combine (R127). -/
def combine (st spec : Nat) : Nat :=
  if spec = 0 then st else if st = 0 then spec else if st = spec then st else 3

def maxOpt (a b : Option Int) : Option Int :=
  match a, b with
  | none, x | x, none => x
  | some x, some y => some (max x y)

/-- The products of an element gathered (R124, R127). -/
def chunkOf (ps : List FVal) : Chunk :=
  ps.foldl (fun c p => match p with
    | .nan => { c with spec := combine c.spec 3 }
    | .inf neg => { c with spec := combine c.spec (if neg then 2 else 1) }
    | .zero _ => c
    | .fin neg m e =>
      let s := sumAt c.m c.e (signedM neg m) e
      { c with m := s.1, e := s.2, top := maxOpt c.top (some (topExp m e)) }) ⟨0, 0, none, 0⟩

def big (m add : Int) : Bool := 2 ^ 47 ≤ m.natAbs + add.natAbs

/-- The renormalisation loop of R125: the exponent, the elements, and the steps taken. -/
def renorm : Nat → Int → List (AccElem × Chunk) → Nat → Int × List (AccElem × Chunk) × Nat
  | 0, e, xs, n => (e, xs, n)
  | fuel + 1, e, xs, n =>
    let over' := fun (x : AccElem × Chunk) => x.1.st == 0 && big x.1.m (roundWindow x.2.m x.2.e e)
    if !xs.any over' then (e, xs, n)
    else if 32767 - 8 < e then
      (e, xs.map (fun x => if over' x then
        ({ x.1 with st := if 0 < x.1.m + roundWindow x.2.m x.2.e e then 1 else 2 }, x.2) else x), n)
    else renorm fuel (e + 8) (xs.map (fun x => if x.1.st = 0 then ({ x.1 with m := roundWindow x.1.m 0 8 }, x.2) else x))
      (n + 1)

/-- One chunk applied to an accumulator (R125): the block and the steps of renormalisation. -/
def applyChunk (b : Block) (n : Nat) (cs : List Chunk) : Block × Nat :=
  let top := cs.foldl (fun t c => maxOpt t c.top) none
  let auto := accAuto b n
  let e0 : Int := if auto then (match top with
    | some t => clampInt (t - 40) (-32768) 32767
    | none => 0) else accExp b n
  let xs := (cs.zip (List.range 1024)).map (fun x => (accElem b n x.2, x.1))
  let r := renorm 8200 e0 xs 0
  let done := r.2.1.map (fun x =>
    let m := if x.1.st = 0 then x.1.m + roundWindow x.2.m x.2.e r.1 else x.1.m
    (⟨m, combine x.1.st x.2.spec⟩ : AccElem))
  (setAccAll (setAccExp b n r.1 (auto && top.isNone)) n done, r.2.2)

/-! ## Tiles and the panel (R135, R139 to R142) -/

def tileRowKey (t i : Nat) : Nat := 32 * t + i

/-- The A format of a tile tag with its K per chunk, where it is not a residue tag. -/
def tileFormat (fmt : Nat) : Option (PageFmt × Nat) :=
  match fmt with
  | 0x09 => some (⟨.f16, 16, 1, 0, .none⟩, 32)
  | 0x0A => some (⟨.bf16, 16, 1, 0, .none⟩, 32)
  | 0x0B => some (⟨.e4m3, 8, 1, 0, .none⟩, 64)
  | 0x0C => some (⟨.e5m2, 8, 1, 0, .none⟩, 64)
  | 0x12 => some (⟨.e2m1, 4, 1, 0, .none⟩, 128)
  | _ => none

/-- The B formats that an A format pairs with (R142). -/
def pairsWith (a b : Nat) : Bool :=
  match a with
  | 0x09 | 0x0A => b == 0x09 || b == 0x0A || b == 0x18 || b == 0x19
  | 0x0B | 0x0C => b == 0x0B || b == 0x0C || b == 0x10 || b == 0x11 || b == 0x14
  | 0x12 => b == 0x12 || b == 0x13
  | _ => false

/-- The A elements of a tile row with the row scale applied. -/
def tileRow (b : Block) (t i : Nat) (f : PageFmt) (kc : Nat) : List FVal :=
  let row := (SMap.get b.tileRows (tileRowKey t i)).toNat
  let tag := (SMap.get b.tileTags (tileRowKey t i)).toNat
  let scale := if f.ebits = 16 then FVal.fin false 1 0 else scaleValue .e8m0 tag
  (List.range kc).map (fun k => (fProd (f.element (row / 2 ^ (f.ebits * k) % 2 ^ f.ebits) 0) scale).1)

def regionByte (r : Nat) : Nat := 65536 * r

/-- The value of element i of a region, its scale included. -/
def regionValue (b : Block) (r : Nat) (f : PageFmt) (i : Nat) : FVal :=
  let o := i * f.ebits / 8
  let code := f.code o (readBytes b.wbuf (regionByte r + o) (Nat.max 1 (f.ebits / 8))) i
  (f.decoded code (leNat (readBytes b.wbuf (regionByte r + f.metaAddr i) f.recBytes))).1

/-- The 64-byte units that n bytes of the W-buffer from an address touch. -/
def unitsOf (a n : Nat) : List Nat := if n = 0 then [] else (List.range ((a + n - 1) / 64 - a / 64 + 1)).map (a / 64 + ·)

/-- Why an MMAD stops, or what it brings. -/
inductive MmadPlan where
  | format
  | poison
  | chunk (cs : List Chunk)
  | residue (b : Block)

/-- A dot product of FP data. -/
def dotProducts (xs ys : List FVal) : List FVal := (xs.zip ys).map (fun p => (fProd p.1 p.2).1)

def tilePoisoned (b : Block) (t : Nat) : Bool := (List.range 32).any (fun i => b.tilePoison.contains (tileRowKey t i))

/-- MMAD without RNS: the checks of R135, R140 and R142, poison, and the chunk of every element. -/
def planMmad (b : Block) (t w : Nat) : MmadPlan :=
  let r := w / 65536
  let o := w % 65536
  match tileFormat (SMap.get b.tileFmt t).toNat, pageFmt (SMap.get b.wfmt r).toNat (SMap.get b.wgeo r).toNat with
  | some (fa, kc), some fb =>
    let panel := 32 * kc * fb.ebits / 8
    if 0x2FFFFF < w || !pairsWith (SMap.get b.tileFmt t).toNat (SMap.get b.wfmt r).toNat ||
        o % (kc * fb.ebits / 8) != 0 || fb.dataEnd < o + panel then .format
    else
      let first := 8 * o / fb.ebits
      let recs := if fb.recBytes = 0 then [] else
        unitsOf (regionByte r + fb.metaAddr first)
          (fb.metaAddr (first + 32 * kc - 1) + fb.recBytes - fb.metaAddr first)
      if tilePoisoned b t || (unitsOf w panel ++ recs).any (fun u => b.wpoison.contains u) then .poison
      else
        let rows := (List.range 32).map (fun i => tileRow b t i fa kc)
        let cols := (List.range 32).map (fun j => (List.range kc).map (fun k => regionValue b r fb (first + kc * j + k)))
        .chunk (rows.flatMap (fun x => cols.map (fun y => chunkOf (dotProducts x y))))
  | _, _ => .format

/-- Elements of a plane of a RES unit (R111). -/
def resN (d : Nat) : Nat := 64 * (65536 / (64 * (d + 3)))

/-- Channel residues of MMAD.RNS (R166): row i of the tile against column j of the panel at slot k, on lanes and a unit
that may be defective (R289, R503). -/
def resProduct (b : Block) (core : CoreRec) (t r d ke first i j k : Nat) : Nat :=
  let row := (SMap.get b.tileRows (tileRowKey t i)).toNat
  let m := modulus (slotChannel d k)
  (((List.range ke).map (fun x =>
    (row / 2 ^ (8 * (k * ke + x)) % 256) % m *
      ((SMap.get b.wbuf (regionByte r + k * resN d + first + ke * j + x)).toNat % m) +
        core.laneError (k * ke + x) j)).sum + core.unitError k) % m

/-- An element's packed residues after a chunk, in its four members' mantissas. -/
def resUpdate (b : Block) (core : CoreRec) (u : Quad) (t r ke first i j : Nat) : List (Nat × BitVec 48) :=
  let v := fun (c : Nat) =>
    let old := quadResidue b u.q i j c
    if !u.chset.getLsbD c then old
    else
      let k := if c < 8 then c else u.d + (c - 8)
      (old + resProduct b core t r u.d ke first i j k) % modulus c
  (List.range 4).map (fun a => (accKey (4 * u.q + a) i j,
    BitVec.ofNat 48 (v (3 * a) + (if a < 3 then v (3 * a + 1) * 2 ^ 16 + v (3 * a + 2) * 2 ^ 32 else 0))))

/-- MMAD.RNS (R142, R166). On a core that has too few unfenced groups for a single term, whose K_eff is 0, no chunk can
be formed, and it stops with FORMAT as for a tile of another K_eff (DESIGN CHOICE, log entry 72). -/
def planRns (b : Block) (core : CoreRec) (n t w : Nat) : MmadPlan :=
  let r := w / 65536
  let first := w % 65536
  let geo := (SMap.get b.tileGeo t).toNat
  match (if n % 4 = 0 then b.quad? n else none) with
  | none => .format
  | some u =>
    let ke := kEff core geo
    if 0x2FFFFF < w || SMap.get b.tileFmt t != 0x1C || SMap.get b.wfmt r != 0x1C || geo != u.d ||
        (SMap.get b.wgeo r).toNat != u.d || (SMap.get b.tileKeff t).toNat != ke ||
        u.chset.toNat != channelSet core u.d || ke == 0 || first % ke != 0 || resN u.d < first + 32 * ke then .format
    else
      let spans := (List.range (u.d + 3)).flatMap (fun k => unitsOf (regionByte r + k * resN u.d + first) (32 * ke))
      if tilePoisoned b t || spans.any (fun x => b.wpoison.contains x) then .poison
      else
        let cells := (List.range 32).flatMap (fun i => (List.range 32).flatMap (fun j => resUpdate b core u t r ke first i j))
        let rowTag := fun i => (SMap.get b.tileTags (tileRowKey t i)).toNat
        let colTag := fun j => tagMax ((List.range ke).map (fun x =>
          (SMap.get b.wbuf (regionByte r + (u.d + 2) * resN u.d + first + ke * j + x)).toNat))
        let upd := fun (m : SMap 8) (f : Nat → Nat) => (List.range 32).foldl (fun m i =>
          SMap.set m i (BitVec.ofNat 8 (Nat.max (tagRead (SMap.get m i).toNat) (tagRead (f i))))) m
        let u' := { u with
          ea := upd u.ea rowTag
          eb := upd u.eb colTag
          ktotal := BitVec.ofNat 48 (Nat.min (u.ktotal.toNat + ke) (2 ^ 48 - 1)) }
        .residue { b with
          accM := cells.foldl (fun m x => SMap.set m x.1 x.2) b.accM
          quads := b.quads.map (fun x => if x.q == u.q then u' else x) }

/-! ## Stream words -/

/-- A word of the stream acts for its core's sequencer. A thread that issues one of the five raises ROLE (R425). -/
def streamWord (i : Instr) (f : Nat → State → State) (s : State) : State :=
  match s.actor with
  | .seq c => f c s
  | _ => issueWord i (fun _ _ s => .done s) (fun _ _ s => .done s) s

/-- The sequencer goes to the next word, after some further clocks (R154). -/
def seqNext (s : State) (c : Nat) (further : Nat) : State :=
  s.modSeq c (fun q => { q with
    spc := q.spc + 1, busy := s.clock + 1 + further, line := q.line.map (·.past q.spc) })

/-- MMAD's effect on the sequencer: the reuse latch (R137) and the clocks (R154). -/
def mmadDone (s : State) (c : Nat) (b : Block) (w : IForm) (steps : Nat) : State :=
  let reuse := if w.mod9.getLsbD 0 then some w.a.code.toNat else none
  let s := s.modBlock c (fun _ => b)
  seqNext (s.modSeq c (fun q => { q with reuse := reuse, ready := s.clock + 14 })) c (2 * steps)

/-- MMAD (R435, R436). -/
def execMmad (w : IForm) (s : State) : Out :=
  .next (streamWord (.mmad w) (fun c s =>
    let b := s.block c
    let n := w.d.code.toNat
    let rns := w.mod9.getLsbD 1
    match (if rns then planRns b ((s.coreRec c).struck s.clock) n w.a.code.toNat w.imm.toNat
           else planMmad b w.a.code.toNat w.imm.toNat) with
    | .format => seqStop s c codeFormat cFormat
    | .poison => seqStop s c codeSrcPoison cPoison
    | .residue b' => mmadDone s c b' w 0
    | .chunk cs =>
      let r := applyChunk (leaveQuad b n) n cs
      mmadDone s c r.1 w r.2) s)

/-- The exponent operand of a stream MZERO: the latest write of its uniform register (R444, log entry 12). -/
def streamUniform (b : Block) (o : Opnd) : Word :=
  match o with
  | .s n => match uniBest (b.uniPend.filter (fun w => w.reg == n.val)) with
    | some w => w.value
    | none => SMap.get b.uni n.val
  | _ => 0

/-- MZERO in an EPI party: once, for the lowest slot whose guard is true (R445). -/
def epiZero (i : Instr) (f : Nat → Nat → State → Eff) (s : State) : State :=
  let who := (actingSlots i s).head?
  issueWord i (fun c q s => if who = some q then f c q s else .done s) (fun _ _ s => .done s) s

/-- MZERO (R444, R445). -/
def execMzero (w : FForm) (s : State) : Out :=
  .next (match s.actor with
    | .seq c => seqNext (s.modBlock c (fun b => zeroAcc b w.num5 (some (streamUniform b w.a)))) c 0
    | _ => epiZero (.mzero w) (fun c q s =>
        let v := readWord s c q w.a
        .done (s.modBlock c (fun b => zeroAcc b w.num5 (some v)))) s)

/-- MZERO.AUTO (R444, R445). -/
def execMzeroAuto (w : FForm) (s : State) : Out :=
  .next (match s.actor with
    | .seq c => seqNext (s.modBlock c (fun b => zeroAcc b w.num5 none)) c 0
    | _ => epiZero (.mzeroAuto w) (fun c _ s => .done (s.modBlock c (fun b => zeroAcc b w.num5 none))) s)

/-- MZERO.RNS (R165, R445): a FORMAT is raised in every thread of the party whose guard is true. -/
def execMzeroRns (w : FForm) (s : State) : Out :=
  .next (match s.actor with
    | .seq c =>
      let b := s.block c
      let d := bits (b.rnsAt s.clock none).toNat 3 0
      if d = 0 ∨ w.num5 % 4 ≠ 0 then seqStop s c codeFormat cFormat
      else seqNext (s.modBlock c (fun b => zeroQuad b (s.coreRec c) (w.num5 / 4) d)) c 0
    | _ =>
      let who := (actingSlots (.mzeroRns w) s).head?
      issueWord (.mzeroRns w) (fun c q s =>
        let d := profileOf s c q
        if d = 0 ∨ w.num5 % 4 ≠ 0 then .trap s (rnsFormat d)
        else if who = some q then .done (s.modBlock c (fun b => zeroQuad b (s.coreRec c) (w.num5 / 4) d))
        else .done s) (fun _ _ s => .done s) s)

/-- The arrival of the sequencer at a barrier, which joins its participant set (R233, R432). -/
def seqArrive (s : State) (c n : Nat) : State :=
  (arrive s c n true).modSeq c (fun q => { q with parts := q.parts ||| (1#32 <<< n) })

/-- The wait of the sequencer (R233): the stream goes on once PHASE differs from the parity bit. -/
def seqWait (s : State) (c n : Nat) : State :=
  let ph := barrierPhase s c n
  let q := (s.block c).seq
  if ph == q.parity.getLsbD n then s
  else seqNext (s.modSeq c (fun q => { q with parity := q.parity ^^^ (1#32 <<< n), armed := none })) c 0

/-- MBAR.ARV (R431, R432). -/
def execMbarArv (w : FForm) (s : State) : Out :=
  .next (streamWord (.mbarArv w) (fun c s =>
    if s.clock < (s.block c).seq.ready then s else seqNext (seqArrive s c w.num5) c 0) s)

/-- MBAR.WT (R431, R432). -/
def execMbarWt (w : FForm) (s : State) : Out :=
  .next (streamWord (.mbarWt w) (fun c s => seqWait s c w.num5) s)

/-- MBAR.SYNC (R431, R432). -/
def execMbarSync (w : FForm) (s : State) : Out :=
  .next (streamWord (.mbarSync w) (fun c s =>
    let q := (s.block c).seq
    if q.armed = some w.num5 then seqWait s c w.num5
    else if s.clock < q.ready then s
    else seqWait ((seqArrive s c w.num5).modSeq c (fun q => { q with armed := some w.num5 })) c w.num5) s)

/-- MEND (R433). -/
def execMend (w : FForm) (s : State) : Out :=
  .next (streamWord (.mend w) (fun c s =>
    let q := (s.block c).seq
    if s.clock < q.ready then s
    else
      let s := completionWrite s (s.agent c) q.cw (q.spc + 1).toNat 0 codeOk
      (seqNext s c 0).modSeq c (fun q => { q with state := .idle, reuse := none })) s)

/-- MJMP (R133, R434). -/
def execMjmp (w : IForm) (s : State) : Out :=
  .next (streamWord (.mjmp w) (fun c s =>
    let q := (s.block c).seq
    let i := (w.mod9.extractLsb' 0 2).toNat
    let n := bits w.imm.toNat 31 16
    let old := (q.sc.getD i 0).toNat
    let v := (if old = 0 then (if n = 0 then 65536 else n) else old) - 1
    let s := s.modSeq c (fun q => { q with sc := q.sc.set i (BitVec.ofNat 17 v) })
    if 0 < v then
      s.modSeq c (fun q => { q with
        spc := q.spc + (w.imm.extractLsb' 0 16).signExtend 64, busy := s.clock + 2, line := q.line.map (·.past q.spc) })
    else seqNext s c 0) s)

/-! ## Starting the stream (R441, R442) -/

/-- The positions that a stop recorded (R280): word address, counters, parity bits, participants. -/
def readSeqRecord (s : State) (c : Nat) : State × DWord × List (BitVec 17) × BitVec 32 × BitVec 32 :=
  match imgAddr (s.block c) 0 with
  | none => let q := (s.block c).seq; (s, q.spc, q.sc, q.parity, q.parts)
  | some a =>
    let r := physRead s a 0x20
    let v := r.2.1
    (r.1, BitVec.ofNat 64 v, (List.range 4).map (fun i => BitVec.ofNat 17 (v / 2 ^ (128 + 16 * i) % 65536)),
      BitVec.ofNat 32 (v / 2 ^ 192), BitVec.ofNat 32 (v / 2 ^ 224))

/-- An accepted MSTART. -/
def startSeq (s : State) (c : Nat) (spc : DWord) (sc : List (BitVec 17)) (parity parts : BitVec 32) (cw : DWord) : State :=
  s.modSeq c (fun _ => { Seq.blank with
    state := .running, spc := spc, sc := sc, parity := parity, parts := parts, cw := cw, ready := s.clock,
    busy := s.clock + 1 })

/-- Both forms: the completion word is checked first; a discarded one takes ABORTED. -/
def mstart (w : FForm) (resume : Bool) (c q : Nat) (s : State) : Eff :=
  let cw := readPair s c q w.b
  let r := checkAligned s (s.agent c) cw 8 needW 2
  match r.2 with
  | .error t => .trap r.1 t
  | .ok _ =>
    let st := (r.1.block c).seq.state
    if st = .running ∨ (resume ∧ st ≠ .stopped) then .done (completionWrite r.1 (r.1.agent c) cw 0 0 codeAborted (some q))
    else if resume then
      let x := readSeqRecord r.1 c
      .done (startSeq x.1 c x.2.1 x.2.2.1 x.2.2.2.1 x.2.2.2.2 cw)
    else
      let parity : BitVec 32 := (List.range 32).foldl (fun m n => if barrierPhase r.1 c n then m ||| (1#32 <<< n) else m) 0
      .done (startSeq r.1 c (readPair s c q w.a) [0, 0, 0, 0] parity 0 cw)

/-- MSTART. -/
def execMstart (w : FForm) (s : State) : Out :=
  .next (issueWord (.mstart w) (mstart w false) (fun _ _ s => .done s) s)

/-- MSTART.RESUME. -/
def execMstartResume (w : FForm) (s : State) : Out :=
  .next (issueWord (.mstartResume w) (mstart w true) (fun _ _ s => .done s) s)

/-! ## The sequencer's fetch (R132, R152) -/

/-- What the cause of a failed fetch does to the stream: the completion code and the cause beside it. -/
def streamStopCode (s : State) (t : Trap) : Nat × Nat :=
  if t.cause = cPerm then (codeAborted, cPerm)
  else if t.cause = cPoison then
    if s.remote t.phys && !s.live.contains (paPkg t.phys) then (codePeerLost, cPeerLost) else (codeSrcPoison, cPoison)
  else (codeLease, t.cause)

/-- The next stream word, or none where the stream has stopped or waits for a page. -/
def seqFetch (s : State) (c : Nat) : State × Option Instr :=
  let q := (s.block c).seq
  let f := fetchWord s (s.agent c) seqFetcher q.spc
  match f.2 with
  | .ok w =>
    match decodeStream w with
    | .ok i => (f.1, some i)
    | .error .illegalOpcode => (seqStop f.1 c codeAborted cIllegalOpcode, none)
    | .error _ => (seqStop f.1 c codeAborted cIllegalEncoding, none)
  | .error t =>
    if t.cause = cNotPresent then
      let s := f.1.modSeq c (fun q => { q with waiting := t.addr })
      let s := writeSeqRecord s c
      (fqPush s (fqRecord s c 0x800 cNotPresent (t.taddr q.spc) (s.block c).saveBase), none)
    else
      let x := streamStopCode f.1 t
      (seqStop f.1 c x.1 x.2, none)

/-! ## ACCRD and ACCWR (R145, R146, R357 to R361) -/

def elemValue (x : AccElem) (e : Int) : FVal :=
  match x.st with
  | 0 => if x.m = 0 then .zero false else .fin (x.m < 0) x.m.natAbs e
  | 1 => .inf false
  | 2 => .inf true
  | _ => .nan

def accFormat (geo : Nat) : Trap := rnsFormat geo

/-- ACCRD (R357 to R359). -/
def execAccrd (w : FForm) (s : State) : Out :=
  .next (issueWord (.accrd w) (fun c q s =>
    let row := (readWord s c q w.a).toNat
    let n := w.num5
    let b := s.block c
    if 31 < row then .trap s (Trap.plain cFormat 0)
    else match b.quad? n with
      | some u => .trap s (accFormat u.d)
      | none =>
        let f := fmtOf w.ty
        let y := f.encode .rne w.sat (elemValue (accElem b n (32 * row + laneOf q)) (accExp b n))
        let put := fun (s : State) (v : Nat) =>
          let t := s.thread c q
          Eff.done (allocTag s c q ⟨w.ctl.alloc.toNat, splitValue (dstRegs t w.d 1) v, none, y.2, false, none, none, t.pc,
            0, 0, w.d.code, 0, 0, false⟩)
        if !w.sub.getLsbD 10 then put s y.1
        else
          let e := bits (readWord s c q w.b).toNat 11 0
          let k := boundCheck s (cohortOf c) e false (f.decode y.1)
          match k.2.1 with
          | .trap => .trap k.1 (Trap.plain cBound (boundExtra e (laneOf q) 0))
          | .clamp m => put k.1 (f.encode (if m then .rd else .ru) false (clampTarget k.2.2 false m)).1
          | _ => put k.1 y.1)
    (fun c q s => .done (allocTag s c q (emptyResult w.ctl.alloc.toNat (s.thread c q).pc w.d 1))) s)

/-- The exponent that raises until every written mantissa fits (R145): the exponent, the steps, and whether it could not
rise further. -/
def rowExp : Nat → Int → List FVal → Nat → Int × Nat × Bool
  | 0, e, _, n => (e, n, false)
  | fuel + 1, e, vs, n =>
    let tooBig := fun (v : FVal) => match v with
      | .fin s m x => 2 ^ 47 ≤ (roundWindow (signedM s m) x e).natAbs
      | _ => false
    if !vs.any tooBig then (e, n, false)
    else if 32767 - 8 < e then (e, n, true)
    else rowExp fuel (e + 8) vs (n + 1)

/-- Every normal element shifted by n steps of renormalisation. -/
def shiftAcc (b : Block) (n : Nat) : Nat → Block
  | 0 => b
  | k + 1 =>
    let b := setAccAll b n ((List.range 1024).map (fun i =>
      let x := accElem b n i
      if x.st = 0 then { x with m := roundWindow x.m 0 8 } else x))
    shiftAcc b n k

/-- One lane's value as an element under an exponent. -/
def laneElem (old : AccElem) (e : Int) (v : FVal) : AccElem :=
  match v with
  | .nan => { old with st := 3 }
  | .inf s => { old with st := if s then 2 else 1 }
  | .zero _ => ⟨0, 0⟩
  | .fin s m x =>
    let r := roundWindow (signedM s m) x e
    if 2 ^ 47 ≤ r.natAbs then { old with st := if s then 2 else 1 } else ⟨r, 0⟩

/-- WriteRow (R145, R361): the later of two lanes that name one column remains. -/
def writeRow (b : Block) (n i : Nat) (ws : List (Nat × FVal)) : Block :=
  let b := leaveQuad b n
  let tops := ws.filterMap (fun w => match w.2 with
    | .fin _ m e => some (topExp m e)
    | _ => none)
  let auto := accAuto b n
  let b := if !auto then b
    else match tops.foldl (fun t x => maxOpt t (some x)) none with
      | some t => setAccExp b n (t - 40) false
      | none => setAccExp b n 0 true
  let r := rowExp 8200 (accExp b n) (ws.map (·.2)) 0
  let b := shiftAcc (setAccExp b n r.1 (accAuto b n)) n r.2.1
  ws.foldl (fun b w => setAccElem b n (32 * i + w.1) (laneElem (accElem b n (32 * i + w.1)) r.1 w.2)) b

/-- ACCWR (R360, R361): once per party, at the turn of the first member that contributes. -/
def execAccwr (w : FForm) (s : State) : Out :=
  let parts : List (Nat × Nat × FVal) := match s.actor with
    | .party c _ => ((actingSlots (.accwr w) s).map (fun q =>
        let s := (commitTags s c q (Ctl.tags w.ctl)).1
        (q, (readWord s c q w.a).toNat, fmtF32.decode (readWord s c q w.b).toNat))).filter (fun (x : Nat × Nat × FVal) => x.2.1 < 32)
    | _ => []
  .next (issueWord (.accwr w) (fun c q s =>
    if 31 < (readWord s c q w.a).toNat then .trap s (Trap.plain cFormat 0)
    else if (parts.map (·.1)).head? = some q then
      .done (s.modBlock c (fun b => (List.range 32).foldl (fun b i =>
        let ws := parts.filter (fun x => x.2.1 == i)
        if ws.isEmpty then b else writeRow b w.num5 i (ws.map (fun x => (laneOf x.1, x.2.2)))) b))
    else .done s) (fun _ _ s => .done s) s)

/-! ## BNDSET (R376 to R378) -/

/-- The pending hits of an entry's cached copies go into memory, saturating (R150). -/
def collectHits (s : State) (n : Nat) (p : BoundCache → Bool) : State :=
  let mine := s.bounds.filter (fun b => b.entry == n && p b)
  let s := { s with bounds := s.bounds.filter (fun b => !(b.entry == n && p b)) }
  let add := (mine.map (·.hits)).sum
  if add = 0 then s
  else
    let r := physRead s (bndAddr s n + 4) 4
    physWrite r.1 (bndAddr s n + 4) (Nat.min 0xFFFFFFFF (r.2.1 + add)) 4

/-- The three forms: `op` is 0 SET, 1 SET.KH, 2 GET. The home slice's answer brings its level (R195, log entry 76). -/
def bndsetOp (op : Nat) (w : FForm) (c q : Nat) (s : State) : Eff :=
  let n := bits (readWord s c q w.a).toNat 11 0
  let xb := (readWord s c q w.b).toNat
  let xva : DWord := BitVec.ofNat 64 xb
  let ctx := (s.block c).ctx
  let ent := bndAddr s n
  if xb % 16 ≠ 0 then .trap s (Trap.at cMisaligned 16 5 xva)
  else if 0x1FFFF0 < xb then .trap s (Trap.at cPerm 5 5 xva)
  else if !bndEnabled s || ctx == 0 || (SMap.get s.bndown n).toNat != ctx then
    .trap s (Trap.at cPerm 3 (if op = 2 then 1 else 2) 0 ent)
  else if op ≠ 2 && xPoisoned s c xb 16 then .trap s (Trap.at cPoison 1 5 xva)
  else
    let s := collectHits s n (fun _ => true)
    let m := homeRead s ent 16
    if op = 2 then
      let s := xWrite m.1 c xb m.2.1
      .done (sliceAnswer
        (if m.2.2 then s.modBlock c (fun b => { b with xpoison := insertNat b.xpoison (xb / 32) }) else s) c q)
    else
      let img := xRead m.1 c xb 16
      let img := if op = 1 then img.take 4 ++ (m.2.1.drop 4).take 4 ++ img.drop 8 else img
      .done (sliceAnswer (homeWrite m.1 none ent img) c q)

/-- BNDSET. -/
def execBndset (w : FForm) (s : State) : Out :=
  .next (issueWord (.bndset w) (bndsetOp 0 w) (fun _ _ s => .done s) s)

/-- BNDSET.KH. -/
def execBndsetKh (w : FForm) (s : State) : Out :=
  .next (issueWord (.bndsetKh w) (bndsetOp 1 w) (fun _ _ s => .done s) s)

/-- BNDSET.GET. -/
def execBndsetGet (w : FForm) (s : State) : Out :=
  .next (issueWord (.bndsetGet w) (bndsetOp 2 w) (fun _ _ s => .done s) s)

/-- BOUND_CACHE_EVICT (R150). -/
def execBoundCacheEvict (cohort : Nat) (entry : BitVec 12) (s : State) : Out :=
  .next (collectHits s entry.toNat (fun b => b.cohort == cohort))

/-! ## TLD (R486, R487) -/

def tileFmtOk (f : Nat) : Bool := (tileFormat f).isSome || f == 0x1C

/-- TLD. -/
def execTld (w : IForm) (s : State) : Out :=
  .next (issueWord (.tld w) (fun c q s =>
    let a := readPair s c q w.a
    let ctl := a.toNat / 2 ^ 32
    let fmt := bits ctl 5 0
    let geo := bits ctl 11 8
    let d := profileOf s c q
    let bad := !tileFmtOk fmt || (fmt == 0x1C && (d == 0 || geo != d)) || (fmt != 0x1C && geo != 0)
    if bad then .trap s ⟨cFormat, fmt + 2 ^ 8 * geo, 5, none, 0, 0⟩
    else match xCheck s c w.plc (a.setWidth 32) w.imm 64 64 with
      | .error t => .trap s t
      | .ok x =>
        let ke := kEff (s.coreRec c) d
        if fmt = 0x1C ∧ xBytes < x.2 + (d + 3) * ke then .trap s (Trap.at cPerm 5 5 (BitVec.ofNat 64 x.2))
        else
          let t := w.d.code.toNat
          let key := tileRowKey t (bits ctl 28 24)
          let po := xPoisoned s x.1 x.2 64 || (fmt == 0x1C && xPoisoned s x.1 (x.2 + (d + 2) * ke) ke)
          let row := BitVec.ofNat 512 (leNat (xRead s x.1 x.2 64))
          let tag := if fmt = 0x1C then tagMax ((xRead s x.1 (x.2 + (d + 2) * ke) ke).map (·.toNat)) else bits ctl 23 16
          .done (s.modBlock c (fun b => { b with
            tileRows := SMap.set b.tileRows key row
            tileFmt := SMap.set b.tileFmt t (BitVec.ofNat 8 fmt)
            tileGeo := SMap.set b.tileGeo t (BitVec.ofNat 8 geo)
            tileKeff := if fmt = 0x1C then SMap.set b.tileKeff t (BitVec.ofNat 8 ke) else b.tileKeff
            tileTags := SMap.set b.tileTags key (BitVec.ofNat 8 tag)
            tilePoison := if po then insertNat b.tilePoison key else b.tilePoison.filter (· != key) })))
    (fun _ _ s => .done s) s)

end Sys2Proof.Machine
end

