-- ==== Sys2Proof/Machine/Schedule.lean ====
section
/-! DEFINITION. When a thread is ready and which party a quarter issues (R28 to R33, R80, R195), and the events that move
threads and sequencers on: RESULT_ARRIVAL, AGE_PROMOTION, CONGESTION_LEVEL_EXPIRY, URGENT_READ_MARK, FRESUME and
STOPPED_SEQ_ARRIVAL. -/

namespace Sys2Proof.Machine

/-! ## The next word of a thread -/

/-- The word at a thread's PC as it would be fetched for it now. -/
def peekWord (s : State) (t : Thread) : Option Instr :=
  match (fetchWord s (s.agent t.core) t.slot t.pc).2 with
  | .ok w => match decodeThread w with
    | .ok i => some i
    | .error _ => none
  | .error _ => none

/-- The memory instructions that the throttling cap counts (R195). -/
def throttled : Instr → Bool
  | .ld _ | .st _ | .atom _ | .cas _ | .red _ | .txe _ => true
  | _ => false

/-- The instructions that open a copy command of the block (R390, R484). -/
def issuesCopy : Instr → Bool
  | .tcpy _ | .tcpyResume _ | .pfetch _ | .coll _ => true
  | _ => false

/-- The congestion level in force for a quarter (R195). -/
def State.levelOf (s : State) (c k : Nat) : Nat :=
  ((s.congestion.filter (fun x => x.core == c && x.quarter == k && s.clock < x.untilClock)).map (·.level)).foldl Nat.max 0

/-- CAPℓ, from 1 to 16 (R195). -/
def State.capOf (s : State) (level : Nat) : Nat :=
  Nat.max 1 (Nat.min 16 (bits s.regs.throt.toNat (5 * level + 4) (5 * level)))

/-- The cap of a quarter is reached: that many of the last 16 clocks issued a counted party. -/
def State.capReached (s : State) (c k : Nat) : Bool :=
  s.capOf (s.levelOf c k) ≤ (s.memIssues.filter (fun m => m.1 == c && m.2.1 == k && s.clock < m.2.2 + 16)).length

/-- The thread's next word is held back from issue: by the throttling cap, from which promotion frees a thread (R195),
or by the block's copy commands that have not ended, which hold a promoted thread too (R484, R390). -/
def heldBack (s : State) (t : Thread) (i : Instr) : Bool :=
  (!t.promoted && throttled i && s.capReached t.core (quarterOf t.slot)) ||
    (issuesCopy i && Config.maxCopies ≤ openCopies s t.core)

/-- A thread is ready (R28). A word that cannot be fetched or decoded raises its fault when it issues. -/
def ready (s : State) (t : Thread) : Bool :=
  t.live && t.susp == .none && !t.frozen && match t.wait with
    | .none => match peekWord s t with
      | some i => tagsArrived t (Ctl.tags i.ctl) && !i.isCrossLane && !heldBack s t i
      | none => true
    | .cross _ _ _ _ => crossReady s t.core t.slot
    | _ => false

/-- A thread stands at a cross-lane word with its tags arrived and has not arrived yet (R43). -/
def arrivesNow (s : State) (t : Thread) : Option Instr :=
  if t.live && t.susp == .none && !t.frozen && t.wait == .none then
    match peekWord s t with
    | some i => if i.isCrossLane && tagsArrived t (Ctl.tags i.ctl) then some i else none
    | none => none
  else none

/-! ## The PC table (R29, R33) -/

/-- A role's priority register (R52). -/
def Block.prioOf (b : Block) (r : Role) : Nat := ((b.roles.find? (fun x => x.role == r)).map (·.prio)).getD 0

def effPrio (b : Block) (t : Thread) : Nat := if t.promoted then 16 else b.prioOf t.role

/-- The sort key of R29 and R33, smallest first. -/
def sortKey (b : Block) (t : Thread) : List Nat :=
  if t.promoted then [0, 2 ^ 32 - t.age, t.slot]
  else [1, 16 - b.prioOf t.role, b2n t.yld, t.pc.toNat, t.slot]

def lexLe : List Nat → List Nat → Bool
  | [], _ => true
  | _ :: _, [] => false
  | a :: as, b :: bs => a < b || (a == b && lexLe as bs)

/-- The first thread of a table. -/
def headOf (b : Block) (ts : List Thread) : Option Thread :=
  ts.foldl (fun h t => match h with
    | none => some t
    | some u => if lexLe (sortKey b u) (sortKey b t) then some u else some t) none

/-- Yield bits that clear: no ready thread of the same priority has its bit clear (R33). -/
def clearYields (s : State) (c k : Nat) (rs : List Thread) : State :=
  let b := s.block c
  { s with threads := s.threads.map (fun t =>
      if t.core == c && quarterOf t.slot == k && t.yld &&
          !rs.any (fun u => u.slot != t.slot && !u.yld && effPrio b u == effPrio b t) then { t with yld := false } else t) }

/-- The party of a table's head (R30), as slots, ascending: those at its PC to which the fetch delivers the same word.
That a thread which a changed code word reaches in another version (R330) stays out is not in R30 (DESIGN CHOICE, log
entry 69). -/
def partyOf (s : State) (c : Nat) (rs : List Thread) (h : Thread) : List Nat :=
  match h.wait with
  | .cross _ _ _ _ => crossGroup s c h.slot
  | _ =>
    let b := s.block c
    let mates := rs.filter (fun t => t.slot != h.slot && t.wait == .none && effPrio b t == effPrio b h && t.pc == h.pc &&
      peekWord s t == peekWord s h)
    let add := fun (p : List Nat) (t : Thread) => if p.any (fun q => laneOf q == laneOf t.slot) then p else p ++ [t.slot]
    sortNat ((sortBy (fun (a b : Thread) => a.slot ≤ b.slot) mates).foldl add [h.slot])

/-- The ready threads of a party can issue as one: at one PC and with one word, which they have not arrived at, or at
one cross-lane word whose active members they are (R31, R43). -/
def oneParty (s : State) (c : Nat) (slots : List Nat) (ts : List Thread) : Bool :=
  match ts with
  | [] => false
  | h :: _ =>
    match h.wait with
    | .cross _ _ _ _ => crossGroup s c h.slot == slots
    | _ => ts.all (fun t => t.pc == h.pc && t.wait == .none && peekWord s t == peekWord s h)

/-- KEEP (R31): the party of the last clock, where every member is ready at one PC and no promoted thread is ready. -/
def keptParty (s : State) (c k : Nat) (rs : List Thread) : Option (List Nat) :=
  match ((s.block c).kept.find? (fun x => x.1 == k)).map (·.2) with
  | none => none
  | some slots =>
    let ts := slots.filterMap (fun q => rs.find? (fun t => t.slot == q))
    if ts.length = slots.length && !rs.any (·.promoted) && oneParty s c slots ts then some slots else none

/-- The extra clocks that the busiest bank costs a party (R80). Where the rotations of its members differ, the member
with the busiest bank counts, a point that R80 leaves open (DESIGN CHOICE, log entry 58). -/
def bankHold (ts : List Thread) (i : Instr) : Nat :=
  let worst := fun (t : Thread) =>
    let regs := ((vectorReads i.uses).map (rotateName t.loops)).dedup
    ([0, 1, 2, 3].map (bankReads regs)).foldl Nat.max 0
  ((ts.map worst).foldl Nat.max 0 - 2 + 1) / 2

/-- The threads that are ready and do not issue in an issue clock grow older (R32). -/
def ageOthers (s : State) (c : Nat) (rs : List Thread) (party : List Nat) : State :=
  let older := (rs.filter (fun t => !party.contains t.slot)).map (·.slot)
  let s : State := { s with threads := s.threads.map (fun t =>
    if t.core == c && older.contains t.slot && t.live then { t with age := t.age + 1 } else t) }
  let due := s.threads.filter (fun (t : Thread) =>
    t.core == c && older.contains t.slot && t.live && t.age == 3584 && !t.promoted)
  due.foldl (fun s (t : Thread) => s.post (.agePromotion c t.slot)) s

/-- The kept request that a party leaves (R31). -/
def noteKept (s : State) (c k : Nat) (party : List Nat) : State :=
  let all := party.all (fun q => (s.thread c q).keep)
  s.modBlock c (fun b => { b with
    kept := (if all && !party.isEmpty then [(k, party)] else []) ++ b.kept.filter (fun x => x.1 != k) })

/-! ## Results and ages -/

/-- The oldest result under a tag that has not arrived becomes available. -/
def arriveFirst (tag : Nat) : List Pending → List Pending
  | [] => []
  | p :: r => if p.tag == tag && !p.arrived then { p with arrived := true } :: r else p :: arriveFirst tag r

/-- RESULT_ARRIVAL (R73, R195): the response of a slice carries a congestion level. -/
def execResultArrival (core slot tag : Nat) (congestion : BitVec 2) (s : State) : Out :=
  let p := (s.thread core slot).pend.find? (fun p => p.tag == tag && !p.arrived)
  let s := s.modThread core slot (fun t => { t with pend := arriveFirst tag t.pend })
  .next (if p.any (fun p => p.slice) then addCongestion s core slot congestion.toNat else s)

/-- AGE_PROMOTION (R32, R33). -/
def execAgePromotion (core slot : Nat) (s : State) : Out :=
  .next (s.modThread core slot (fun t =>
    if t.live && 3584 ≤ t.age then { t with promoted := true, yld := false } else t))

/-- CONGESTION_LEVEL_EXPIRY (R195). -/
def execCongestionLevelExpiry (core quarter : Nat) (s : State) : Out :=
  .next { s with congestion := s.congestion.filter (fun x =>
    !(x.core == core && x.quarter == quarter && x.untilClock ≤ s.clock)) }

/-- A thread is held by the tag of a slice's read and by nothing else, the throttling cap and the copy limit included
(R194). -/
def heldByRead (s : State) (t : Thread) : Option Nat :=
  if t.live && t.susp == .none && !t.frozen && t.wait == .none then
    match peekWord s t with
    | some i =>
      let late := t.pend.filter (fun p => (Ctl.tags i.ctl).contains p.tag && !p.arrived)
      match late with
      | [p] => if p.kind == 1 && p.slice && !heldBack s t i then some p.tag else none
      | _ => none
    | none => none
  else none

/-- URGENT_READ_MARK (R194): the quarter's table is empty and a thread waits only on that read. -/
def execUrgentReadMark (core quarter : Nat) (s : State) : Out :=
  let ts := s.threads.filter (fun t => t.core == core && quarterOf t.slot == quarter)
  .next (if ts.any (fun t => ready s t) then s
    else ts.foldl (fun s' t => match heldByRead s t with
      | some tag => s'.notice (.urgent core quarter tag)
      | none => s') s)

/-! ## Resolution by the package kernel (R276) -/

/-- The fields of an FRESUME command. -/
structure Fresume where
  rect : Nat
  bx : Nat
  bY : Nat
  all : Bool
  seq : Bool
  slot : Nat

def parseFresume (v : DWord) : Fresume :=
  let n := v.toNat
  ⟨bits n 63 48, bits n 44 40, bits n 35 32, bit n 29, bit n 11, bits n 10 0⟩

/-- TADDR of a suspension by a fault (R276); a service request has none. -/
def suspAddr (t : Thread) : Option DWord :=
  match t.susp with
  | .fault a _ => some a
  | .nested a _ => some a
  | .handlerSvc => some t.taddr
  | _ => none

/-- The block that a command names, whether its sequencer is meant, and the slots that it acts on; nothing where it
names nothing suspended. -/
def fresumeTargets (s : State) (v : DWord) : Option (Nat × Bool × List Nat) :=
  let f := parseFresume v
  match s.blocks.find? (fun b => b.rect == f.rect && b.bx == f.bx && b.bY == f.bY) with
  | none => none
  | some b =>
    let t := s.thread b.core f.slot
    let named := if f.seq then b.seq.waiting.isSome else t.live && t.susp != .none
    if !named then none
    else
      let page := (if f.seq then b.seq.waiting else suspAddr t).map (fun (a : DWord) => a.toNat / 65536)
      let more := if f.all then
          (s.threads.filter (fun u => u.core == b.core && u.live && (f.seq || u.slot != f.slot) &&
            page.isSome && (suspAddr u).map (fun (a : DWord) => a.toNat / 65536) == page)).map (·.slot)
        else []
      some (b.core, f.seq, (if f.seq then [] else [f.slot]) ++ more)

/-- One suspended thread goes on. -/
def resumeThread (c : Nat) (s : State) (q : Nat) : State :=
  let was := (s.thread c q).susp
  let s := s.modThread c q (fun t => { t with susp := .none })
  let s := saveWrite s c (threadRecord q + 0x934) (recordFlags (s.thread c q)) 4
  match was with
  | .handlerSvc => returnFromTrap s c q
  | .service next => s.modThread c q (fun t => { t with pc := next })
  | _ => s

/-- FRESUME, RETRY (R274, R276), of a package that is up (R317, R320). -/
def execFresumeRetry (cmd : DWord) (s : State) : Out :=
  .next (s.ifUp (fun s => match fresumeTargets s cmd with
    | none => s
    | some (c, seq, slots) =>
      let s := if seq then s.modSeq c (fun q => { q with waiting := none }) else s
      slots.foldl (resumeThread c) s))

/-- One suspended thread is killed, its block with it; a nested suspension takes DOUBLE. -/
def killThread (c : Nat) (s : State) (q : Nat) : State :=
  let t := s.thread c q
  if !t.live then s
  else match t.susp with
    | .nested _ x => raiseDouble s c q x.toNat
    | .fault _ tc => killBlock s c tc.toNat t.pc.toNat
    | .handlerSvc => killBlock s c t.tcause.toNat t.tpc.toNat
    | _ => killBlock s c 0 t.pc.toNat

/-- FRESUME, KILL (R274, R276). -/
def execFresumeKill (cmd : DWord) (s : State) : Out :=
  .next (s.ifUp (fun s => match fresumeTargets s cmd with
    | none => s
    | some (c, seq, slots) =>
      let s := if seq then killBlock s c 0x410 (s.block c).seq.spc.toNat else s
      slots.foldl (killThread c) s))

/-! ## A stopped sequencer (R233) -/

/-- STOPPED_SEQ_ARRIVAL: the arrival owed for a completion of an earlier clock. -/
def execStoppedSeqArrival (core : Nat) (barrier : Fin 32) (s : State) : Out :=
  let q := (s.block core).seq
  let due := q.owed.find? (fun x => x.1 == barrier.val && x.2 < s.clock)
  .next (match due with
    | some x =>
      let s := s.modSeq core (fun q => { q with owed := q.owed.erase x })
      if q.state = .stopped then arrive s core barrier.val true else s
    | none => s)

end Sys2Proof.Machine
end

