-- ==== Sys2Proof/Machine/Transactions.lean ====
section
/-! DEFINITION. Class 7: transactions (R238 to R252, R492), and TX_COMMIT. -/

namespace Sys2Proof.Machine

/-- The exit word of a TXB (R238). -/
def txExit (s : State) (c q : Nat) (w : IForm) : DWord := (s.thread c q).pc + w.imm.signExtend 64

/-- The log of a transaction that a thread opens at depth 1 (R239). -/
def newTx (s : State) (c q : Nat) (w : IForm) : Tx :=
  let t := s.thread c q
  ⟨1, w.mod9.toNat % 8, txExit s c q w, t.stack.length, t.loops.length, none, 0, [], []⟩

/-- Transaction slots in use on a core (R241). -/
def slotsInUse (s : State) (c : Nat) : Nat := (s.threads.filter (fun t => t.core == c && t.tx.isSome)).length

/-- Regions leave a set, for their homes, until it fits its ways; which leave is free (R182, R185). -/
def trimSet (c set : Nat) : Nat → State → State
  | 0, s => s
  | fuel + 1, s =>
    let rs := regionsIn (s.coreRec c) set
    if rs.length ≤ s.ways c then s
    else
      let ch := s.takeNat rs.length
      trimSet c set fuel (flushRegion ch.2 c (rs.getD ch.1 0))

/-- The transaction region is emptied of ordinary data (R185). -/
def openRegion (s : State) (c : Nat) : State :=
  let r := s.coreRec c
  let sets := (((r.sectors.map (fun (x : L1Sector) => x.sector / 16)) ++
    (r.updates.map (fun (u : UpdateRegion) => u.region))).map (fun k => k % 256)).dedup
  sets.foldl (fun s set => trimSet c set 3 s) s

/-- The lock read of an outermost TXB (R239, R492): a nonzero lock aborts. -/
def lockRead (s : State) (c q : Nat) (lock : Opnd) : Eff :=
  let va := readPair s c q lock
  let r := threadAccess s c q va 4 needR 3
  match r.2 with
  | .error x => x.eff r.1
  | .ok x =>
    let b := txRead r.1 c q x x.pa 4
    match b.2 with
    | .error e => .abort b.1 e.1 e.2
    | .ok bs =>
      let s := if txSliceAnswers r.1 c q x x.pa 4 then sliceAnswer b.1 c q else b.1
      let s := putTx s c q { txOf s c q with lockSector := some (x.pa / 32), lockAddr := x.pa }
      if leNat bs ≠ 0 then .abort s txLocked 0 else .done s

/-- TXB (R239). -/
def execTxb (w : IForm) (s : State) : Out :=
  .next (issueWord (.txb w) (fun c q s =>
    match (s.thread c q).tx with
    | some tx => if tx.depth = 7 then .abort s txIllegal 0 else .done (putTx s c q { tx with depth := tx.depth + 1 })
    | none =>
      if Config.txSlots ≤ slotsInUse s c then
        .moved (abortFrom s c q { newTx s c q w with depth := 0 } txNoSlot 0)
      else
        let fresh := !s.hasTx c
        let s := putTx s c q (newTx s c q w)
        let s := if fresh then openRegion s c else s
        if w.a = .zero then .done s else lockRead s c q w.a)
    (fun c q s => .goto s (txExit s c q w)) s)

/-- TXE (R239): the outermost one starts the commit, which delivers its own outcome. -/
def execTxe (w : FForm) (s : State) : Out :=
  .next (issueWord (.txe w) (fun c q s =>
    let pc := (s.thread c q).pc
    match (s.thread c q).tx with
    | none => .done (deliverTxe s c q w pc false (txStatus 0 0 0 0 txNone))
    | some tx =>
      if 1 < tx.depth then
        let s := putTx s c q { tx with depth := tx.depth - 1 }
        .done (deliverTxe s c q w pc true (txStatus tx.reads.length tx.writes.length (tx.depth - 1) 0 0))
      else .hold ((s.modThread c q (fun t => { t with wait := .commit w })).post (.txCommit c q)))
    (fun _ _ s => .done s) s)

/-- TXA (R239). -/
def execTxa (w : IForm) (s : State) : Out :=
  .next (issueWord (.txa w) (fun c q s =>
    if (s.thread c q).tx.isSome then .abort s txExplicit (w.imm.toNat % 256) else .done s) (fun _ _ s => .done s) s)

/-- The status of a thread now (R240). -/
def txNow (t : Thread) : Word :=
  match t.tx with
  | some tx => txStatus tx.reads.length tx.writes.length tx.depth 0 0
  | none => txStatus 0 0 0 0 txNone

/-- TXQ (R240). -/
def execTxq (w : FForm) (s : State) : Out :=
  .next (tagWord (.txq w) w.ctl.alloc w.d 1 (fun c q s => ((txNow (s.thread c q)).toNat, 0)) s)

/-- Every grain that holds a read or write sector is locked, and its dirty bytes and deltas obtained, before anything is
compared (R248). -/
def obtainGrains (s : State) (tx : Tx) : State :=
  let s := tx.reads.foldl (fun s e => obtain s (32 * e.sector) 32 e.grain) s
  tx.writes.foldl (fun s e => obtain s (32 * e.sector) 32 e.grain) s

/-- What a read entry's comparison finds (R248): poison, a change, the lock taken, or nothing. -/
def entryFails (s : State) (tx : Tx) (e : TxRead) : Option Nat :=
  if e.poison || s.poison.contains e.sector then some txPoison
  else if sectorOfBytes (memBytes s (32 * e.sector) 32) = e.data then none
  else if tx.lockSector = some e.sector ∧ leNat (memBytes s tx.lockAddr 4) ≠ 0 then some txLocked
  else some txConflict

/-- The failure of a commit (R248): LOCKED where the lock was taken (R253), else that of the entry looked at last. R248
gives the entries no order: they are looked at as they were logged (DESIGN CHOICE, log entry 81). -/
def txFails (s : State) (tx : Tx) : Option Nat :=
  if tx.reads.any (fun e => entryFails s tx e == some txLocked) then some txLocked
  else tx.reads.foldl (fun f e => (entryFails s tx e).or f) none

/-- One write entry of a writer at its home, with its mark (R248, R285). -/
def commitEntry (who : Nat) (s : State) (e : TxWrite) : State :=
  let s := noteReplaced s who (((List.range 32).filter (fun i => e.mask.getLsbD i)).map (32 * e.sector + ·))
  let s := memWriteSector s e.sector e.mask e.data
  if e.poison then { s with poison := insertNat s.poison e.sector }
  else if e.mask = BitVec.allOnes 32 then { s with poison := s.poison.filter (· != e.sector) } else s

/-- The committing core's own copies of written grains go (R251). -/
def dropWritten (s : State) (c : Nat) (tx : Tx) : State :=
  dropClean s c (fun x => tx.writes.any (fun e =>
    grainLo (32 * e.sector) e.grain ≤ 32 * x.sector && 32 * x.sector < grainHi (32 * e.sector) 32 e.grain))

/-- The release records that a lazily released commit leaves, one for each aligned 8 bytes that it has written: each of
its writes is a release write (R226, R252). -/
def commitRecords (s : State) (c : Nat) (tx : Tx) : State :=
  tx.writes.foldl (fun s e => (List.range 4).foldl (fun s i =>
    if e.mask.extractLsb' (8 * i) 8 = 0 then s else leaveRecord s c tx.scope 2 (32 * e.sector + 8 * i)) s) s

/-- A successful commit: its release side, the writes, its acquire side, whose reads are the validated ones (R252). -/
def commitAllWrites (s : State) (c q : Nat) (tx : Tx) : State :=
  let s := tx.writes.foldl (commitEntry (threadWriter c q)) (releaseActions s c q tx.scope false)
  let s := commitRecords (dropWritten s c tx) c tx
  acquireActions s c tx.scope (fun r => tx.reads.any (fun e => e.sector == r.addr / 32))

/-- The state and the failure that a commit ends with: all writes land, or none (R248, R249). -/
def commitTx (s : State) (c q : Nat) (tx : Tx) : State × Option Nat :=
  let s := obtainGrains s tx
  match txFails s tx with
  | some f => (s, some f)
  | none => (commitAllWrites s c q tx, none)

/-- A commit's status word (R246): a failed one has arisen at depth 1. -/
def commitStatus (tx : Tx) (fail : Option Nat) : Word :=
  txStatus tx.reads.length tx.writes.length (b2n fail.isSome) (if fail = some txPoison then cPoison else 0)
    (fail.getD txCommitted)

/-- TX_COMMIT (R248 to R252): the commit of an outermost TXE that waits for it ends, and the TXE delivers its outcome.
-/
def execTxCommit (c q : Nat) (s : State) : Out :=
  let t := s.thread c q
  .next (match t.wait, t.tx with
    | .commit w, some tx =>
      let r := commitTx s c q tx
      let s := if tx.reads.isEmpty && tx.writes.isEmpty then r.1 else sliceAnswer r.1 c q
      let s := s.modThread c q (fun t => { t with tx := none, wait := .none })
      completeWord (deliverTxe s c q w t.pc r.2.isNone (commitStatus tx r.2)) c q
    | _, _ => s)

end Sys2Proof.Machine
end

