-- ==== Sys2Proof/Machine/Launch.lean ====
section
/-! DEFINITION. Routes, waypoints and dispatch (R254 to R267): the route queues, the walker, binding, pre-emption and
resumption, and the end of a block. The walker's and the dispatch hardware's own accesses in a context are made by a
core number past the last, the hub. -/

namespace Sys2Proof.Machine

def hub : Nat := Config.numCores

/-- The state after an event that always goes on. -/
def runOut (o : Out) (s : State) : State :=
  match o with
  | .next t => t
  | _ => s

/-- Bytes as they stand, dirty copies counted. -/
def peek (s : State) (pa n : Nat) : Nat := (physRead s pa n).2.1

/-- `n` bytes at an offset of a record read as a number. -/
def field (v off n : Nat) : Nat := v / 2 ^ (8 * off) % 2 ^ (8 * n)

/-! ## Route queues (R254, R255) -/

/-- A route header (R255). -/
structure Header where
  n : Nat
  ctx : Nat
  wpBase : Nat
  table : Nat
  errBase : Nat
  errCap : Nat
  cw : Nat
  pool : Nat
  poolSize : Nat

def parseHeader (v : Nat) : Header where
  n := field v 0 4
  ctx := field v 4 2
  wpBase := field v 8 8
  table := field v 0x10 8
  errBase := field v 0x18 8
  errCap := field v 0x20 4
  cw := field v 0x28 8
  pool := field v 0x30 8
  poolSize := field v 0x38 8

/-- The header at an address, if it can be read whole. -/
def readHeader (s : State) (a : Nat) : State × Option Header :=
  if s.hole a 64 then (s, none)
  else
    let r := physRead s a 64
    (r.1, if r.2.2 then none else some (parseHeader r.2.1))

/-- A level-1 table that a context may have: 64 KiB aligned, in tier 0 of this package. -/
def State.tableOk (s : State) (t : Nat) : Bool := t % 65536 == 0 && paTier t == 0 && !s.remote t

def State.headerBad (s : State) (h : Header) : Bool :=
  h.n == 0 || 2 ^ 20 < h.n || h.wpBase % 4096 != 0 || !s.tableOk h.table || h.errBase % 32 != 0 || 16 < h.errCap ||
    h.pool % 2 ^ 24 != 0 || h.poolSize % 2 ^ 24 != 0 || h.cw % 8 != 0

/-- A route's completion: its word and the interrupt. -/
def routeEnd (s : State) (ctx table cw code : Nat) : State :=
  (if s.tableOk table then completionWrite s ⟨hub, ctx, table⟩ (BitVec.ofNat 64 cw) 0 0 code else s).notice .hostInterrupt

/-- A submission (R254): a full FIFO drops the submission, with code 3. -/
def submitRoute (queue : Fin 16) (addr : DWord) (s : State) : State :=
  let a := addr.toNat / 64 * 64
  let mine := s.rqFifo.filter (fun r => r.1 == queue.val)
  if 64 ≤ mine.length then
    let h := readHeader s a
    match h.2 with
    | some h' => routeEnd h.1 h'.ctx h'.table h'.cw 3
    | none => h.1.notice .hostInterrupt
  else
    let s := { s with rqFifo := s.rqFifo ++ [(queue.val, BitVec.ofNat 64 a)] }
    if mine.isEmpty then s.post (.routeStart queue) else s

/-- RQDB, of a package that is up (R317, R320). -/
def execRqdb (queue : Fin 16) (addr : DWord) (s : State) : Out := .next (s.ifUp (submitRoute queue addr))

/-! ## Waypoint records (R256 to R259) -/

/-- A flag predecessor (R257). -/
structure FlagPred where
  idx : Nat
  va : DWord
  base : Nat
  len : Nat
  target : Nat
  valid : Bool
  scope : Nat

/-- The fields of a waypoint record. -/
structure Wp where
  addr : Nat
  raw : Nat
  kind : Nat
  maxInst : Nat
  prio : Nat
  scope : Nat
  prop : Bool
  predCnt : Nat
  copyPred : Nat
  argp : Nat
  instp : Nat
  flags : List FlagPred
  ring : Ring
  state : Nat
  alive : Nat
  launched : Nat

def parseFlag (v i : Nat) : FlagPred :=
  let o := 0xB0 + 0x20 * i
  ⟨i, BitVec.ofNat 64 (field v o 8), field v (o + 8) 8, field v (o + 0x10) 8, field v (o + 0x18) 4,
    bit (field v (o + 0x1C) 4) 31, bits (field v (o + 0x1C) 4) 2 0⟩

def parseRing (v : Nat) : Ring :=
  ⟨BitVec.ofNat 64 (field v 0x130 8), field v 0x138 1, field v 0x139 1, field v 0x13A 2, field v 0x140 4,
    field v 0x144 4, field v 0x148 4⟩

def parseWp (a v : Nat) : Wp :=
  let k := field v 0 4
  let st := field v 0x170 8
  { addr := a
    raw := v
    kind := bits k 1 0
    maxInst := bits k 7 4 + 1
    prio := bits k 11 8
    scope := bits k 14 12
    prop := bit k 15
    predCnt := field v 4 4
    copyPred := field v 8 4
    argp := field v 0x10 8
    instp := field v 0x18 8
    flags := ([0, 1, 2, 3].map (parseFlag v)).filter (·.valid)
    ring := parseRing v
    state := bits st 2 0
    alive := bits st 15 8
    launched := bits st 63 32 }

def Wp.avail (w : Wp) : Nat := (w.ring.tail + 2 ^ 32 - w.ring.head) % 2 ^ 32

/-- A waypoint's record, as its bytes stand, poisoned or in a hole (R256; DESIGN CHOICE, log entry 88). -/
def readWp (s : State) (route wp : Nat) : State × Wp :=
  let a := s.wpAddr route wp
  let r := physRead s a 512
  (r.1, parseWp a r.2.1)

/-- The state word written (R258). -/
def putWpState (s : State) (w : Wp) (state alive launched : Nat) : State :=
  physWrite s (w.addr + 0x170) (state + alive % 256 * 2 ^ 8 + launched % 2 ^ 32 * 2 ^ 32) 8

/-- Every valid flag entry has been found met. -/
def State.allMet (s : State) (route wp : Nat) (w : Wp) : Bool :=
  w.flags.all (fun f => s.flagsMet.contains (route, wp, f.idx))

/-- One read of a flag word: whether it is met, or the cause of the failure. -/
def readFlag (s : State) (r : Route) (f : FlagPred) : State × Except Nat Bool :=
  let x := checkAligned s ⟨hub, r.ctx, r.table⟩ f.va 4 needR 1
  match x.2 with
  | .error t => (x.1, .error t.cause)
  | .ok y =>
    if x.1.remote y.pa && !x.1.live.contains (paPkg y.pa) then (x.1, .error cPeerLost)
    else
      let v := agentRead x.1 r.ctx y 4
      (v.1, if v.2.2 then .error cPoison else .ok (decide (f.target ≤ leNat v.2.1)))

/-- The flags that are not yet met are read in order; a read that cannot be made names its entry and cause. -/
def readFlags (s : State) (r : Route) (wp : Nat) (fs : List FlagPred) : State × Option (FlagPred × Nat) :=
  fs.foldl (fun (acc : State × Option (FlagPred × Nat)) f =>
    match acc.2 with
    | some _ => acc
    | none =>
      if acc.1.flagsMet.contains (r.id, wp, f.idx) then acc
      else
        let x := readFlag acc.1 r f
        match x.2 with
        | .error c => (x.1, some (f, c))
        | .ok true => ({ x.1 with flagsMet := x.1.flagsMet ++ [(r.id, wp, f.idx)] }, none)
        | .ok false => (x.1, none)) (s, none)

/-! ## Instances -/

/-- The argument block of an instance (R259). -/
def Wp.argAddr (w : Wp) (k : Nat) : Nat := if w.ring.thresh = 0 then w.argp else w.instp + 256 * (k % 16)

/-- The 240 bytes that an instance's argument block takes from ARGP, and the sectors among them, from 0 to 7, that are
poisoned, as they also are where another package refuses the read or is lost (R314). Where ARGP cannot be read, the
manual states no bytes: free ones (DESIGN CHOICE, log entry 61). -/
def argBytes (s : State) (ag : Agent) (w : Wp) : State × List Byte × List Nat :=
  let src := checkAligned s ag (BitVec.ofNat 64 w.argp) 256 needR 1
  match src.2 with
  | .error _ => ({ src.1 with freeCtr := src.1.freeCtr + 1 }, (List.range 240).map (Config.freeByte src.1.freeCtr), [])
  | .ok x =>
    (List.range 8).foldl (fun (acc : State × List Byte × List Nat) i =>
      let b := agentRead acc.1 ag.ctx { x with pa := x.pa + 32 * i } (if i = 7 then 16 else 32)
      (b.1, acc.2.1 ++ b.2.1, if b.2.2 then acc.2.2 ++ [i] else acc.2.2)) (src.1, [], [])

/-- The argument block of a queue's instance filled: 240 bytes of ARGP with their marks, the first record, the count,
the number. Where the block does not translate, nothing is written, and the bind finds out (R261). The walker's write
asks for R alone and sets A alone: R259 names no permission (DESIGN CHOICE, log entry 32). -/
def fillArgs (s : State) (r : Route) (w : Wp) (k n : Nat) : State :=
  let ag : Agent := ⟨hub, r.ctx, r.table⟩
  let src := argBytes s ag w
  let dst := checkAligned src.1 ag (BitVec.ofNat 64 (w.argAddr k)) 256 needR 1
  match dst.2 with
  | .ok y =>
    let first := w.ring.base.toNat + w.ring.head % 2 ^ w.ring.capLog * 2 ^ w.ring.rsLog
    let w := agentWrite dst.1 ag.ctx none y (src.2.1 ++ leBytes first 8 ++ leBytes n 4 ++ leBytes k 4) 1
    if w.2.isSome || paTier y.pa == 3 then w.1
    else { w.1 with poison := src.2.2.foldl (fun l i => insertNat l (y.pa / 32 + i)) w.1.poison }
  | .error _ => dst.1

/-- The order of R260. -/
def ReadyInst.key (x : ReadyInst) : List Nat := [16 - x.queue, 16 - x.prio, x.time, x.wp]

def insertReady (x : ReadyInst) (l : List ReadyInst) : List ReadyInst :=
  l.filter (fun y => lexLe y.key x.key) ++ [x] ++ l.filter (fun y => !lexLe y.key x.key)

/-- A span of bytes cut where it passes a page's end. -/
def pageParts (va n : Nat) : List (Nat × Nat) :=
  let m := Nat.min n (65536 - va % 65536)
  if m = n then [(va, n)] else [(va, m), (va + m, n - m)]

/-- The bytes of a structure of a COPY waypoint's list, in halves of 64 bytes where it is longer. A descriptor is
64-byte aligned (R306); for the 32-byte records of the list no rule asks an alignment, and they are read wherever they
lie, byte after byte of their pages (DESIGN CHOICE, log entry 90). -/
def listRead (s : State) (ag : Agent) (va n align : Nat) : State × Except (Nat × Nat) Nat :=
  if va % align ≠ 0 then (s, .error (codeAborted, cMisaligned))
  else
    let parts := if n = 128 then [(va, 64), (va + 64, 64)] else pageParts va n
    let r := parts.foldl (fun (acc : State × Except (Nat × Nat) (List Byte)) p =>
      match acc.2 with
      | .error e => (acc.1, .error e)
      | .ok bs =>
        let x := engineRead acc.1 ag (p.1 : Int) p.2
        match x.2 with
        | .error e => (x.1, .error e)
        | .ok b => (x.1, if b.2 then .error (codeSrcPoison, cPoison) else .ok (bs ++ b.1))) (s, .ok [])
    (r.1, r.2.map leNat)

/-- One command of a COPY waypoint (R308); one whose structures cannot be read ends at once. R308 gives a Kind byte of
2 to 255 no outcome: such a command ends with FORMAT (DESIGN CHOICE, log entry 90). -/
def listCommand (s : State) (r : Route) (wp k va : Nat) : State :=
  let ag : Agent := ⟨hub, r.ctx, r.table⟩
  let rec' := listRead s ag va 32 1
  let blank : CopyCmd := ⟨rec'.1.nextCopy, .tcpy, none, r.ctx, r.table, some (r.id, wp, k), BitVec.ofNat 64 va,
    TensorDesc.none, TensorDesc.none, none, none, none, none, 0, none, false, false, [], none, false, s.timeUs⟩
  let add := fun (s : State) (c : CopyCmd) => ({ s with copies := s.copies ++ [c], nextCopy := s.nextCopy + 1 } : State)
  match rec'.2 with
  | .error e => endCopy (add rec'.1 blank) blank.id e.1 e.2
  | .ok v =>
    let kind := field v 0x18 1
    let src := field v 0 8
    let c := { blank with
      kind := if kind = 1 then .pfetch else .tcpy
      desc := BitVec.ofNat 64 src
      cw := if field v 0x10 8 = 0 then none else some (BitVec.ofNat 64 (field v 0x10 8)) }
    let s := add rec'.1 c
    if 1 < kind then endCopy s c.id codeFormat cFormat
    else
      let a := listRead s ag src 128 64
      let b := if kind = 0 then listRead a.1 ag (field v 8 8) 128 64 else (a.1, .ok 0)
      match a.2, b.2 with
      | .ok x, .ok y => b.1.modCopy c.id (fun c => { c with
          src := parseDesc x, dst := if kind = 0 then parseDesc y else TensorDesc.none })
      | .error e, _ => endCopy b.1 c.id e.1 e.2
      | _, .error e => endCopy b.1 c.id e.1 e.2

/-- The range acquire of a flag entry (R229, R237, R258): the releases that its word has met are drained; at fabric
scope and wider the clean borrowed copies of its range go. The cores drop theirs when the blocks are placed. -/
def acquireFlag (r : Route) (s : State) (f : FlagPred) : State :=
  let mine := inSpans (rangeSpans s ⟨hub, r.ctx, r.table⟩ f.base f.len)
  let s := if 3 ≤ f.scope then drainRecords s (fun _ => true) mine else s
  if 6 ≤ f.scope then dropBorrowed s mine else s

/-- A waypoint that no dispatch takes: a COPY waypoint of a SCOPE from 1 to 3, or a THRESH that its ring cannot hold
(R257, R259). The bind finds the SCOPE of the others (R261). -/
def Wp.rejected (w : Wp) : Bool :=
  (w.kind == 1 && (w.scope == 1 || w.scope == 2 || w.scope == 3)) || 2 ^ w.ring.capLog < w.ring.thresh

/-- Such a waypoint fails with LAUNCH_REJECTED before any instance (DEDUCED, log entry 63). -/
def rejectWp (s : State) (r : Route) (wp : Nat) (w : Wp) : State :=
  let s := s.modRoute r.id (fun r => { r with failedWps := insertNat r.failedWps wp })
  (errorNoCore s r.id 1 wp w.launched 2 0).post (.waypointComplete r.id wp)

/-- MakeInstance (R258): HEAD advances, what the flags release is acquired, and the instance is READY or, for a COPY
waypoint, its commands start and the next instance is looked for. STATE tells the latest step of any instance: READY
here, PLACED once one is bound, resumed or rejected, which R258 leaves open for a waypoint with several (DESIGN CHOICE,
log entry 78). -/
def makeInstance (s : State) (r : Route) (wp : Nat) (w : Wp) (n : Nat) : State :=
  let k := w.launched
  let s := w.flags.foldl (acquireFlag r) (drainRecords s (fun _ => true))
  let s := if w.ring.thresh = 0 then s
    else fillArgs (physWrite s (w.addr + 0x148) ((w.ring.head + n) % 2 ^ 32) 4) r w k n
  if w.kind = 1 then
    let count := field w.raw 0x28 4
    if count = 0 then
      let s := putWpState s w 2 w.alive (k + 1)
      (s.post (.waypointEvaluate r.id wp)).post (.waypointComplete r.id wp)
    else
      ((List.range count).foldl (fun s j => listCommand s r wp k (field w.raw 0x20 8 + 32 * j))
        (putWpState s w 2 (w.alive + 1) (k + 1))).post (.waypointEvaluate r.id wp)
  else
    let s := putWpState s w 1 (w.alive + 1) (k + 1)
    { s with ready := insertReady ⟨r.id, wp, k, r.queue, w.prio, s.clock, n⟩ s.ready }

/-- One evaluation (R258, R265) of a waypoint that is WAITING or PLACED. -/
def evaluateWaypoint (route wp : Nat) (s : State) : State :=
  match s.route? route with
  | none => s
  | some r =>
    let x := readWp s route wp
    let w := x.2
    if r.n ≤ wp ∨ !(w.state == 0 || w.state == 2) ∨ w.predCnt ≠ 0 then s
    else
      let f := readFlags x.1 r wp w.flags
      match f.2 with
      | some (e, c) =>
        let s := f.1.modRoute route (fun r => { r with failedWps := insertNat r.failedWps wp })
        (errorNoCore s route 6 wp w.launched (e.idx + 2 ^ 8 * c) e.va.toNat).post (.waypointComplete route wp)
      | none =>
        let s := f.1
        if !s.allMet route wp w then s
        else if w.rejected then rejectWp s r wp w
        else if w.ring.thresh = 0 then (if w.launched = 0 then makeInstance s r wp w 0 else s)
        else if w.ring.thresh ≤ w.avail ∧ w.alive < w.maxInst then makeInstance s r wp w w.ring.thresh
        else if 0 < w.avail ∧ w.avail < w.ring.thresh ∧ w.alive = 0 then makeInstance s r wp w w.avail
        else if w.avail = 0 ∧ w.alive = 0 then s.post (.waypointComplete route wp)
        else s

/-- WAYPOINT_EVALUATE (R258, R265). -/
def execWaypointEvaluate (route wp : Nat) (s : State) : Out := .next (evaluateWaypoint route wp s)

/-! ## The start of a route (R254, R255) -/

/-- The waypoints of a route whose PREDCNT is 0. -/
def readyWaypoints (s : State) (r : Route) : List Nat :=
  (List.range r.n).filter (fun i => peek s (r.wpBase + 0x200 * i + 4) 4 == 0)

/-- The first route of a queue that has not started: its header is read and checked, its waypoints with PREDCNT 0 are
evaluated, and then it leaves the FIFO. -/
def startRoute (queue : Fin 16) (s : State) : State :=
  match s.rqFifo.find? (fun r => r.1 == queue.val) with
    | none => s
    | some e =>
      let h := readHeader s e.2.toNat
      let s := match h.2 with
        | none => h.1.notice .hostInterrupt
        | some x =>
          if h.1.headerBad x then routeEnd h.1 x.ctx x.table x.cw 2
          else
            let r : Route := ⟨h.1.routes.length, queue.val, e.2.toNat, x.n, x.ctx, x.wpBase, x.table,
              BitVec.ofNat 64 x.errBase, x.errCap, 0, BitVec.ofNat 64 x.cw, false, false, [], []⟩
            let s : State := { h.1 with routes := h.1.routes ++ [r] }
            (readyWaypoints s r).foldl (fun s i => evaluateWaypoint r.id i s) s
      let s := { s with rqFifo := s.rqFifo.erase e }
      if s.rqFifo.any (fun r => r.1 == queue.val) then s.post (.routeStart queue) else s

/-- ROUTE_START, of a package that is up (R317, R320). -/
def execRouteStart (queue : Fin 16) (s : State) : Out := .next (s.ifUp (startRoute queue))

/-! ## Completion (R255, R265) -/

/-- The successor indices of a waypoint. The count is at most 65,535; of a larger one in its four bytes the low 16 bits
count, here and for EMIT (DESIGN CHOICE, log entry 78); poisoned ones are taken as they stand (log entry 88). -/
def successors (s : State) (w : Wp) : List Nat :=
  (List.range (field w.raw 0xA0 4 % 2 ^ 16)).map (fun j => peek s (field w.raw 0xA8 8 + 4 * j) 4)

/-- One successor's counts go down, or the bad index is recorded. -/
def notifySuccessor (r : Route) (wp : Nat) (w : Wp) (s : State) (t : Nat) : State :=
  if r.n ≤ t then errorNoCore s r.id 5 wp (w.launched - 1) t 0
  else
    let a := r.wpBase + 0x200 * t
    let p := (peek s (a + 4) 4 + 2 ^ 32 - 1) % 2 ^ 32
    let s := physWrite s (a + 4) p 4
    let s := if w.kind = 1 then physWrite s (a + 8) ((peek s (a + 8) 4 + 2 ^ 32 - 1) % 2 ^ 32) 4 else s
    if p = 0 then s.post (.waypointEvaluate r.id t) else s

/-- The waypoints that wait, directly or not, on some of a list. -/
def waitersOn (s : State) (r : Route) : Nat → List Nat → List Nat
  | 0, l => l
  | fuel + 1, l =>
    let more := (l.flatMap (fun i => successors s (readWp s r.id i).2)).filter (fun t => t < r.n && !l.contains t)
    if more.isEmpty then l else waitersOn s r fuel (l ++ more.dedup)

/-- The failed waypoints that hold their successors back. -/
def blockers (s : State) (r : Route) : List Nat :=
  (List.range r.n).filter (fun i => let w := (readWp s r.id i).2; w.state == 4 && !w.prop)

/-- Every waypoint is DONE or FAILED, or waits on a FAILED one with PROP = 0. -/
def routeDone (s : State) (r : Route) : Bool :=
  let stuck := (waitersOn s r r.n ((blockers s r).flatMap (fun i =>
    (successors s (readWp s r.id i).2).filter (· < r.n)))).dedup
  (List.range r.n).all (fun i =>
    let w := (readWp s r.id i).2
    w.state == 3 || w.state == 4 || (w.state == 0 && w.predCnt != 0 && stuck.contains i))

/-- The end of a route whose waypoints allow it. -/
def checkRoute (s : State) (route : Nat) : State :=
  match s.route? route with
  | none => s
  | some r =>
    if r.completed || !routeDone s r then s
    else
      let code := if r.dropped || !(blockers s r).isEmpty then 1 else 0
      let left := (List.range r.n).filter (fun i => (readWp s r.id i).2.state == 0)
      routeEnd (s.modRoute route (fun r => { r with completed := true, leftWaiting := left })) r.ctx r.table r.cw.toNat code

/-- WAYPOINT_COMPLETE (R265): the last instance has ended. The writes of its blocks and commands are at their homes
already; a wider scope writes borrowed lines back, and the launches that the completion enables, which acquire it, find
no clean copy of one (R237). -/
def execWaypointComplete (route wp : Nat) (s : State) : Out :=
  .next (match s.route? route with
    | none => s
    | some r =>
      let w := (readWp s route wp).2
      let failed := r.failedWps.contains wp
      let ended := if w.ring.thresh = 0 then w.launched != 0 else w.predCnt == 0 && w.avail == 0 && s.allMet route wp w
      if r.n ≤ wp ∨ w.state = 3 ∨ w.state = 4 ∨ w.alive ≠ 0 ∨ !(failed || ended) then s
      else
        let s := if 6 ≤ w.scope then dropBorrowed (borrowWriteBack s (fun _ => true)) (fun _ => true) else s
        let s := putWpState s w (if failed then 4 else 3) 0 w.launched
        let s := if !failed || w.prop then (successors s w).foldl (notifySuccessor r wp w) s else s
        checkRoute s route)

/-- The counter that a waypoint adds to (R267): its offset in the record. -/
def stallCounter (s : State) (route wp : Nat) (w : Wp) : Option Nat :=
  let met := s.allMet route wp w
  if w.state = 3 ∨ w.state = 4 then none
  else if w.predCnt = w.copyPred ∧ 0 < w.copyPred then some 0x150
  else if w.predCnt = 0 ∧ !met then some 0x158
  else if w.predCnt = 0 ∧ met ∧ 0 < w.avail ∧ w.avail < w.ring.thresh ∧ w.alive ≠ 0 then some 0x160
  else if s.ready.any (fun x => x.route == route && x.wp == wp) then some 0x168
  else none

/-- A waypoint's record is its own: no later route has it, and its route, if it has completed, left it waiting (R265,
R267). -/
def State.counts (s : State) (r : Route) (wp : Nat) (w : Wp) : Bool :=
  (!r.completed || r.leftWaiting.contains wp) &&
    !s.routes.any (fun x => r.id < x.id && x.wpBase ≤ w.addr && w.addr < x.wpBase + 0x200 * x.n)

/-- STALL_COUNTER_TICK (R267): a waypoint that a completed route left waiting goes on counting. -/
def execStallCounterTick (s : State) : Out :=
  .next (s.routes.foldl (fun s r =>
    (List.range r.n).foldl (fun s wp =>
      let w := (readWp s r.id wp).2
      match (if s.counts r wp w then stallCounter s r.id wp w else none) with
      | some o => physWrite s (w.addr + o) (Nat.min (2 ^ 64 - 1) (field w.raw o 8 + 1)) 8
      | none => s) s) s)

end Sys2Proof.Machine
end

