-- ==== Sys2Proof/Machine/Binding.lean ====
section
/-! DEFINITION. Rectangles on cores: BIND and its launch checks (R261, R262), the start of a block (R58, R54), resumption
(R88, R102), PREEMPTDB (R264, R281), and the end of a block (R60, R175). A bind, a pre-emption and an end are one step
each: BINDING and SAVING are never seen. -/

namespace Sys2Proof.Machine

/-! ## The bind record -/

structure BindRec where
  wpAddr : Nat
  inst : Nat
  rect : Nat
  x0 : Nat
  y0 : Nat
  table : Nat
  ctx : Nat
  resume : Bool
  img : Nat
  cw : Nat

/-- The record as read. The image base is 16 MiB aligned; the low bits of one that is not are dropped (DESIGN CHOICE,
log entry 78). -/
def parseBind (v : Nat) : BindRec where
  wpAddr := field v 0 8
  inst := field v 8 4
  rect := field v 0xC 2
  x0 := field v 0xE 1
  y0 := field v 0xF 1
  table := field v 0x10 8
  ctx := field v 0x18 2
  resume := bit (field v 0x1A 1) 0
  img := field v 0x20 8 / 2 ^ 24 * 2 ^ 24
  cw := field v 0x28 8

def BindRec.agent (b : BindRec) : Agent := ⟨hub, b.ctx, b.table⟩

/-- The started route that has not completed and the waypoint whose record lies at an address. -/
def State.wpAt (s : State) (a : Nat) : Option (Route × Nat) :=
  (s.routes.find? (fun r => !r.completed && r.wpBase ≤ a && (a - r.wpBase) % 0x200 == 0 && (a - r.wpBase) / 0x200 < r.n)).map
    (fun r => (r, (a - r.wpBase) / 0x200))

/-- W and H of a waypoint; the field's other bits are ignored (R8, R256). -/
def Wp.rectW (w : Wp) : Nat := bits (field w.raw 0xC 4) 4 0
def Wp.rectH (w : Wp) : Nat := bits (field w.raw 0xC 4) 12 8
def Wp.rectBad (w : Wp) : Bool :=
  w.rectW == 0 || 24 < w.rectW || w.rectH == 0 || 16 < w.rectH

/-- The cores of a rectangle with their positions, in image order. -/
def BindRec.cells (b : BindRec) (w : Wp) : List (Nat × Nat × Nat) :=
  (List.range (w.rectW * w.rectH)).map (fun i =>
    (coreAt (b.x0 + i % w.rectW) (b.y0 + i / w.rectW), i % w.rectW, i / w.rectW))

/-! ## Launch checks (R261) -/

def roleOfCode (n : Nat) : Role :=
  match n % 4 with
  | 0 => .gen
  | 1 => .copy
  | 2 => .feed
  | _ => .epi

/-- The valid entries of the role table (R257). -/
def Wp.roles (w : Wp) : List RoleRow :=
  ([0, 1, 2, 3].filter (fun i => bit (field w.raw (0x28 + 16 * i) 1) 7)).map (fun i =>
    let o := 0x20 + 16 * i
    ⟨roleOfCode (field w.raw (o + 8) 1), field w.raw (o + 9) 1, field w.raw (o + 10) 1, field w.raw (o + 11) 1,
      field w.raw (o + 12) 2, field w.raw (o + 14) 1, BitVec.ofNat 64 (field w.raw o 8)⟩)

def RoleRow.covers (r : RoleRow) (row : Nat) : Bool := r.first ≤ row && row ≤ r.last

/-- A role-table entry in itself. -/
def RoleRow.bad (r : RoleRow) : Bool :=
  r.last < r.first || 63 < r.first || 63 < r.last || 15 < r.prio || r.limit == 0 || 8 * r.adiv8 < r.limit ||
    r.adiv8 == 0 || 48 < r.adiv8

/-- Registers that a quarter's rows take (R50). -/
def quarterRegs (roles : List RoleRow) (q : Nat) : Nat :=
  (((List.range 64).filter (fun row => row % 4 == q)).map (fun row =>
    ((roles.filter (fun r => r.covers row)).map (fun r => 32 * (8 * r.adiv8))).sum)).sum

def rolesBad (roles : List RoleRow) : Bool :=
  roles.isEmpty || roles.any RoleRow.bad ||
  (List.range 64).any (fun row => 1 < (roles.filter (fun r => r.covers row)).length) ||
  !(roles.map (·.role)).Nodup || [0, 1, 2, 3].any (fun q => 65536 < quarterRegs roles q)

/-- EXPECT of a barrier in the waypoint record. -/
def Wp.expect (w : Wp) (n : Nat) : Nat := field w.raw (0x60 + 2 * n) 2

/-- What a launch is rejected for, memory apart. A COPY waypoint, whose KIND R257 allows, has no launch to bind: a bind
record that names one is rejected too (DESIGN CHOICE, log entry 95). -/
def launchBad (w : Wp) : Bool :=
  rolesBad w.roles || (List.range 32).any (fun n => 32768 ≤ w.expect n) || w.kind != 0 ||
  (w.scope == 1 || w.scope == 2 || w.scope == 3) || w.rectBad || 2 ^ w.ring.capLog < w.ring.thresh

/-- One page of an image (R261): its physical address, with A and D set as its writes to come need. -/
def imagePage (s : State) (ag : Agent) (va : Nat) : State × Option Nat :=
  if 2 ^ 52 ≤ va then (s, none)
  else
    let w := translate s ag va
    match w.2 with
    | .fail _ _ => (w.1, none)
    | .leaf e level addr =>
      let sh := levelShift level
      let pa := e.ppn * 2 ^ 16 / 2 ^ sh * 2 ^ sh + va % 2 ^ sh
      if e.r && e.w && paTier pa ≤ 1 && !w.1.remote pa && !w.1.hole pa 65536 then (setAD w.1 ag.core addr e true, some pa)
      else (w.1, none)

/-- The 256 pages of one block's image. -/
def imagePages (s : State) (ag : Agent) (base : Nat) : State × Option (List Nat) :=
  (List.range 256).foldl (fun (acc : State × Option (List Nat)) i =>
    match acc.2 with
    | none => acc
    | some l =>
      let r := imagePage acc.1 ag (base + 65536 * i)
      (r.1, r.2.map (fun p => l ++ [p]))) (s, some [])

def saveBaseOf (b : BindRec) (w : Wp) (bx bY : Nat) : Nat := b.img + 0x1000000 * (bY * w.rectW + bx)

/-- The images of every block of a rectangle. -/
def allImages (s : State) (b : BindRec) (w : Wp) : State × Option (List (List Nat)) :=
  (b.cells w).foldl (fun (acc : State × Option (List (List Nat))) c =>
    match acc.2 with
    | none => acc
    | some l =>
      let r := imagePages acc.1 b.agent (saveBaseOf b w c.2.1 c.2.2)
      (r.1, r.2.map (fun p => l ++ [p]))) (s, some [])

/-- The argument block of a fresh bind; none where it does not translate or is poisoned, nor where its address, at ARGP
or at the instance's slot of INSTP, is not 256-byte aligned, which R256 asks and R261 does not list: that rejects the
launch too (DESIGN CHOICE, log entry 95). -/
def readArgs (s : State) (b : BindRec) (w : Wp) : State × Option (List Byte) :=
  let x := checkAligned s b.agent (BitVec.ofNat 64 (w.argAddr b.inst)) 256 needR 1
  match x.2 with
  | .error _ => (x.1, none)
  | .ok y =>
    let r := agentRead x.1 b.ctx y 256
    (r.1, if r.2.2 then none else some r.2.1)

/-! ## The start of a block (R58) -/

def rowRole (roles : List RoleRow) (row : Nat) : Option RoleRow := roles.find? (fun r => r.covers row)

/-- The slots that a role table creates, with the rows of their roles. -/
def roleSlots (roles : List RoleRow) : List (Nat × RoleRow) :=
  (List.range 2048).filterMap (fun q => (rowRole roles (rowOf q)).map (fun r => (q, r)))

def launchThreads (c : Nat) (roles : List RoleRow) : List Thread :=
  (roleSlots roles).map (fun x => { Thread.blank c x.1 with role := x.2.role, live := true, pc := x.2.entry })

/-- The barrier words of a launch: EXPECT as supplied, else the number of threads (R231). -/
def launchBarriers (w : Wp) (threads : Nat) : SMap 8 :=
  (List.range 32).foldl (fun m n =>
    writeLe m (barrierAddr n) 4 ((if w.expect n = 0 then threads else w.expect n) * 2 ^ 16)) []

/-- A block as the bind places it, with nothing in it yet. -/
def placedBlock (b : BindRec) (r : Route) (wp : Nat) (w : Wp) (c bx bY : Nat) (img : List Nat) : Block :=
  { Block.blank c with
    bx := bx, bY := bY, w := w.rectW, h := w.rectH, rect := b.rect, ctx := b.ctx, table := b.table
    saveBase := BitVec.ofNat 64 (saveBaseOf b w bx bY), img := img, route := r.id, wp := wp, inst := b.inst
    roles := w.roles }

def freshBlock (blk : Block) (w : Wp) (args : List Byte) (threads : Nat) : Block :=
  { blk with
    uni := SMap.ofFun 64 (fun n => BitVec.ofNat 32 (leNat ((args.drop (4 * n)).take 4)))
    xbuf := launchBarriers w threads }

/-! ## Resumption (R84 to R88, R102, R280, R281) -/

/-- `n` bytes of an image. -/
def imgNat (s : State) (img : List Nat) (off n : Nat) : Nat :=
  match img[off / 65536]? with
  | some p => peek s (p + off % 65536) n
  | none => 0

/-- The offset of a physical byte in a block's image. -/
def imgOffset (img : List Nat) (a : Nat) : Option Nat :=
  (img.zipIdx.find? (fun p => p.1 ≤ a && a < p.1 + 65536)).map (fun p => 65536 * p.2 + (a - p.1))

/-- A byte of a thread record that holds a register at or above its role's A: neither written nor read (R84). -/
def aboveRegs (roles : List RoleRow) (o : Nat) : Bool :=
  0x50000 ≤ o && o < 0x550000 &&
    let x := (o - 0x50000) % 0xA00
    (rowRole roles (rowOf ((o - 0x50000) / 0xA00))).any (fun r => 32 * r.adiv8 ≤ x && x < 0x600)

/-- A resume reads a byte of an image: the whole save area (R83) but for the registers of `aboveRegs`, the copy records
(R281) and the buffers (R262). -/
def resumeReads (roles : List RoleRow) (copies o : Nat) : Bool :=
  (o < 0x552000 + 64 * copies && !aboveRegs roles o) || (0x600000 ≤ o && o < 0xB00060)

/-- A poisoned sector in a part of an image that a resume reads. -/
def resumePoisoned (s : State) (img : List Nat) (roles : List RoleRow) : Bool :=
  let copies := imgNat s img 0x50 4
  (img.foldl (fun s p => obtain s p 65536 2) s).poison.any (fun k =>
    (imgOffset img (32 * k)).any (resumeReads roles copies))

def restoreLevel (s : State) (img : List Nat) (off : Nat) : LoopLevel :=
  let rot := imgNat s img (off + 4) 4
  ⟨BitVec.ofNat 32 (imgNat s img off 4), BitVec.ofNat 64 (imgNat s img (off + 8) 8),
    BitVec.ofNat 64 (imgNat s img (off + 0x10) 8), bit rot 31, BitVec.ofNat 3 (bits rot 30 28),
    BitVec.ofNat 6 (bits rot 27 22), BitVec.ofNat 5 (bits rot 21 17), BitVec.ofNat 7 (bits rot 6 0)⟩

def restoreLevels (s : State) (img : List Nat) (off n : Nat) : List LoopLevel :=
  (List.range n).map (fun i => restoreLevel s img (off + 0x20 * i))

/-- A level that no resume takes (R102). -/
def LoopLevel.bad (l : LoopLevel) : Bool :=
  let z := l.wsize.toNat
  16 < z || (z != 0 && 8 * z ≤ l.rrb.toNat) || (z == 0 && l.rrb != 0) || l.last.toNat < l.base.toNat

/-- A thread record that no resume takes (R88, R102). -/
def threadRefused (s : State) (img : List Nat) (x : Nat × RoleRow) : Bool :=
  let a := threadRecord x.1
  let st := imgNat s img (a + 0x60C) 4
  4 < bits st 20 18 || 4 < bits st 14 12 || 64 < bits st 27 21 || bits st 29 28 != roleCode x.2.role ||
  (restoreLevels s img (a + 0x620) (bits st 20 18)).any LoopLevel.bad ||
  (restoreLevels s img (a + 0x940) (bits st 14 12)).any LoopLevel.bad

def resumeRefused (s : State) (img : List Nat) (roles : List RoleRow) : Bool :=
  resumePoisoned s img roles || (roleSlots roles).any (threadRefused s img)

/-- What tells a block from every other, whatever cores and pages it has: its instance and its place in the rectangle.
-/
def Block.key (b : Block) : Nat := (((b.route * 2 ^ 20 + b.wp) * 2 ^ 32 + b.inst) * 32 + b.bx) * 16 + b.bY

/-- The widest release fence that a slot of a pre-empted block had executed (R220). -/
def State.fenceOf (s : State) (key q : Nat) : Nat :=
  ((s.parkedFences.find? (fun p => p.1 == key && p.2.1 == q)).map (·.2.2)).getD 0

/-- A thread as its record stands (R84, R85, R270), reserved bits dropped (R8); a record whose counts exceed the
registers has been refused. -/
def restoreThread (s : State) (blk : Block) (x : Nat × RoleRow) : Thread :=
  let c := blk.core
  let img := blk.img
  let a := threadRecord x.1
  let st := imgNat s img (a + 0x60C) 4
  let fl := imgNat s img (a + 0x934) 4
  { Thread.blank c x.1 with
    role := x.2.role
    live := bit st 31
    pc := BitVec.ofNat 64 (imgNat s img (a + 0x600) 8)
    regs := SMap.ofFun (8 * x.2.adiv8) (fun n => BitVec.ofNat 32 (imgNat s img (a + 4 * n) 4))
    preds := BitVec.ofNat 16 (imgNat s img (a + 0x610) 4) ||| 1#16
    tst := BitVec.ofNat 32 (imgNat s img (a + 0x608) 4) &&& 0x11F#32
    tpc := BitVec.ofNat 64 (imgNat s img (a + 0x900) 8)
    taddr := BitVec.ofNat 64 (imgNat s img (a + 0x908) 8)
    tcause := BitVec.ofNat 32 (imgNat s img (a + 0x910) 4) &&& 0x00FF0FFF#32
    loops := restoreLevels s img (a + 0x620) (Nat.min 4 (bits st 20 18))
    shadow := if bit st 17 then restoreLevels s img (a + 0x940) (Nat.min 4 (bits st 14 12)) else []
    shadowV := bit st 17
    stack := (List.range (Nat.min 64 (bits st 27 21))).map (fun i => BitVec.ofNat 64 (imgNat s img (a + 0x700 + 8 * i) 8))
    age := bits st 11 0
    promoted := 3584 ≤ bits st 11 0
    frozen := bit fl 2
    pendPoison := bit fl 0
    pendLost := if bit fl 4 then some (bits fl 15 6) else none
    rfLatch := if bit fl 3 then some (bits fl 25 16) else none
    relFence := s.fenceOf blk.key x.1
    batch := BitVec.ofNat 32 (imgNat s img (0x550000 + 4 * x.1) 4) }

def seqStateOf (n : Nat) : SeqState := if n = 0 then .idle else if n = 1 then .running else .stopped

/-- The sequencer of an image (R280), at its committed position. -/
def restoreSeq (s : State) (img : List Nat) : Seq :=
  { Seq.blank with
    state := seqStateOf (imgNat s img 0x20 1)
    cause := imgNat s img 0x21 1
    spc := BitVec.ofNat 64 (imgNat s img 0 8)
    sc := [0, 1, 2, 3].map (fun n => BitVec.ofNat 17 (imgNat s img (0x10 + 2 * n) 2))
    parity := BitVec.ofNat 32 (imgNat s img 0x18 4)
    parts := BitVec.ofNat 32 (imgNat s img 0x1C 4)
    cw := BitVec.ofNat 64 (imgNat s img 0x28 8) }

/-- The residue quads of the accumulator headers (R164). -/
def restoreQuads (s : State) (img : List Nat) : List Quad :=
  (List.range 8).filterMap (fun q =>
    let a := 0xA00 + 0x100 * q
    let d := imgNat s img (a + 0x10) 1
    if d = 0 then none
    else some ⟨q, d, BitVec.ofNat 10 (imgNat s img (a + 0x12) 2), BitVec.ofNat 48 (imgNat s img (a + 8) 6),
      SMap.ofFun 32 (fun i => BitVec.ofNat 8 (imgNat s img (a + 0x60 + i) 1)),
      SMap.ofFun 32 (fun j => BitVec.ofNat 8 (imgNat s img (a + 0xA0 + j) 1))⟩)

/-- An accumulator element's 8 bytes. -/
def imgElem (s : State) (img : List Nat) (k : Nat) : Nat := imgNat s img (0x10000 + 8 * k) 8

/-- The block part of an image (R83, R262, R280), reserved bits dropped (R8, R231). -/
def restoreBlock (s : State) (blk : Block) : Block :=
  let img := blk.img
  let st := imgNat s img 0x48 4
  { blk with
    uni := SMap.ofFun 64 (fun n => BitVec.ofNat 32 (imgNat s img (0x100 + 4 * n) 4))
    tvec := BitVec.ofNat 64 (imgNat s img 0x30 8)
    roles := blk.roles.map (fun r => { r with prio := imgNat s img (0x54 + roleCode r.role) 1 % 16 })
    proj := SMap.ofFun 32 (fun k => BitVec.ofNat 144 (imgNat s img (0x200 + 0x20 * k) 18))
    xbuf := SMap.ofFun xBytes (fun a => xByte a (BitVec.ofNat 8 (imgNat s img (0x600000 + a) 1)))
    wbuf := SMap.ofFun 0x300000 (fun a => BitVec.ofNat 8 (imgNat s img (0x800000 + a) 1))
    wfmt := SMap.ofFun 48 (fun r => BitVec.ofNat 8 (imgNat s img (0xB00000 + 2 * r) 1))
    wgeo := SMap.ofFun 48 (fun r => BitVec.ofNat 8 (imgNat s img (0xB00001 + 2 * r) 1))
    tileRows := SMap.ofFun 512 (fun k => BitVec.ofNat 512 (imgNat s img (0x8000 + 0x40 * k) 64))
    tileFmt := SMap.ofFun 16 (fun t => BitVec.ofNat 8 (imgNat s img (0x600 + 0x40 * t) 1))
    tileGeo := SMap.ofFun 16 (fun t => BitVec.ofNat 8 (imgNat s img (0x601 + 0x40 * t) 1 % 16))
    tileKeff := SMap.ofFun 16 (fun t => BitVec.ofNat 8 (imgNat s img (0x602 + 0x40 * t) 1))
    tileTags := SMap.ofFun 512 (fun k => BitVec.ofNat 8 (imgNat s img (0x620 + 0x40 * (k / 32) + k % 32) 1))
    accM := SMap.ofFun 32768 (fun k => BitVec.ofNat 48 (imgElem s img k))
    accSt := SMap.ofFun 32768 (fun k => BitVec.ofNat 2 (imgElem s img k / 2 ^ 48))
    accE := SMap.ofFun 32 (fun n => BitVec.ofNat 16 (imgNat s img (0xA00 + 0x40 * n) 2))
    accFixed := (List.range 32).filter (fun n => !bit (imgNat s img (0xA02 + 0x40 * n) 1) 0)
    quads := restoreQuads s img
    seq := restoreSeq s img
    rnsCfg := rnsWord (BitVec.ofNat 32 (imgNat s img 0x40 4))
    fixCnt := BitVec.ofNat 32 (imgNat s img 0x44 4)
    fixSeen := bit st 0
    misSeen := bit st 1
    rngSeen := bit st 2 }

/-- A command as its image record stands (R281), for an image that no parked command goes with: the descriptors are read
anew. The record of a TCPY names only its source; such a command ends with ABORTED (DESIGN CHOICE, log entry 10). -/
def commandOf (s : State) (c : Nat) (blk : Block) (o id : Nat) : CopyCmd :=
  let kind : CopyKind := if imgNat s blk.img (o + 0x27) 1 = 1 then .pfetch else if imgNat s blk.img (o + 0x27) 1 = 2 then .coll else .tcpy
  let desc := imgNat s blk.img o 8
  let ag : Agent := ⟨c, blk.ctx, blk.table⟩
  let rd := fun (va n : Nat) => match (engineRead s ag (va : Int) n).2 with
    | .ok b => if b.2 then none else some (leNat b.1)
    | .error _ => none
  let half := fun (va : Nat) => match rd va 64, rd (va + 64) 64 with
    | some x, some y => some (parseDesc (x + y * 2 ^ 512))
    | _, _ => none
  let coll := if kind = .coll then (rd desc 64).map parseColl else none
  let src := match kind with
    | .coll => (rd desc 64).bind (fun v => half (v / 2 ^ 128 % 2 ^ 64))
    | _ => half desc
  let lost := kind == .tcpy || src.isNone
  ⟨id, kind, none, blk.ctx, blk.table, none, BitVec.ofNat 64 desc, src.getD TensorDesc.none, TensorDesc.none, coll, none, none,
    none, 0, none, !lost && kind == .pfetch, false, [], if lost then some (codeAborted, 0) else none, false, s.timeUs⟩

/-- The commands of an image, at the position, word, batch, slot and arrival of their records (R281): each with the
structures read at issue, and its time of issue where that counts (R391). A collective is in progress again once 64
others are not (R392). -/
def restoreCopies (s : State) (c : Nat) (blk : Block) : List CopyCmd :=
  let img := blk.img
  let mine := (s.parked.filter (fun p => p.1 == blk.key)).map (·.2)
  (List.range (imgNat s img 0x50 4)).map (fun i =>
    let o := 0x552000 + 64 * i
    let cw := imgNat s img (o + 8) 8
    let bt := imgNat s img (o + 0x20) 4
    let ar := imgNat s img (o + 0x26) 1
    let k := match mine[i]? with
      | some k => if k.desc.toNat = imgNat s img o 8 then k else commandOf s c blk o (s.nextCopy + i)
      | none => commandOf s c blk o (s.nextCopy + i)
    { k with
      block := some (c, imgNat s img (o + 0x24) 2)
      ctx := blk.ctx
      table := blk.table
      cw := if cw = 0 then none else some (BitVec.ofNat 64 cw)
      pos := imgNat s img (o + 0x10) 8
      batch := if bt = 0xFFFFFFFF then none else some (BitVec.ofNat 32 bt)
      arv := if bit ar 7 then some (ar % 32) else none
      coll := k.coll.map (fun r => { r with started := false })
      sinceUs := if k.kind = .coll then k.sinceUs else s.timeUs })

/-! ## BIND -/

def bindAnswer (s : State) (b : BindRec) (code : Nat) : State :=
  if s.tableOk b.table then completionWrite s b.agent (BitVec.ofNat 64 b.cw) 0 0 code else s

/-- A rejected launch or a refused resume (R261, R265): its error record, and its waypoint fails once nothing more of it
runs. -/
def bindReject (s : State) (b : BindRec) (r : Route) (wp code : Nat) : State :=
  let w := (readWp s r.id wp).2
  let s := errorNoCore s r.id (code - 1) wp b.inst code 0
  let s := { s with ready := s.ready.filter (fun x => !(x.route == r.id && x.wp == wp && x.inst == b.inst)) }
  let s := s.modRoute r.id (fun r => { r with failedWps := insertNat r.failedWps wp })
  let s := putWpState s w 2 (w.alive - 1) w.launched
  ((bindAnswer s b code).post (.waypointEvaluate r.id wp)).post (.waypointComplete r.id wp)

/-- A core takes its block: what the launch acquires is fetched anew (R237, R330). -/
def placeBlock (s : State) (blk : Block) (ts : List Thread) : State :=
  let c := blk.core
  let s := dropForeign (selfInvalidate s c true (fun _ => true)) c (fun _ => true)
  let s := s.modCore c (fun k => { k with codeFrom := s.replaced.length })
  { s with
    blocks := s.blocks.filter (fun x => x.core != c) ++ [blk]
    threads := s.threads.filter (fun t => t.core != c) ++ ts }

/-- One block of a resumed rectangle; one that has nothing left to do stays retired. -/
def resumeBlock (s : State) (blk : Block) : State :=
  let blk := restoreBlock s blk
  let ts := (roleSlots blk.roles).map (restoreThread s blk)
  let ks := restoreCopies s blk.core blk
  let over' := !ts.any (·.live) && blk.seq.state == .idle && ks.isEmpty
  let s := placeBlock s { blk with retired := over' } ts
  let s := { s with
    copies := s.copies ++ ks
    nextCopy := s.nextCopy + ks.length
    parked := s.parked.filter (fun p => p.1 != blk.key)
    parkedFences := s.parkedFences.filter (fun p => p.1 != blk.key) }
  (ks.filter (fun (k : CopyCmd) => k.ended.isSome)).foldl (fun s (k : CopyCmd) => s.post (.copyCommandEnd k.id)) s

/-- A resumed rectangle in which no block has anything left to do: they retire now, and it completes (R60, R264). -/
def wakeRect (s : State) (cores : List Nat) : State :=
  if cores.all (fun c => (s.block c).retired) then
    { s with blocks := s.blocks.map (fun b => if cores.contains b.core then { b with retired := false } else b) }
  else s

/-- Every block of a rectangle starts (R54), and its cores' entries become BOUND. -/
def bindStart (s : State) (b : BindRec) (r : Route) (wp : Nat) (w : Wp) (imgs : List (List Nat)) (args : List Byte) :
    State :=
  let s := (((b.cells w).zip imgs)).foldl (fun s x =>
    let c := x.1.1
    let blk := placedBlock b r wp w c x.1.2.1 x.1.2.2 x.2
    let ts := launchThreads c w.roles
    let s := if b.resume then resumeBlock s blk else placeBlock s (freshBlock blk w args ts.length) ts
    s.setSlot ⟨c, b.rect, 2, b.inst, b.wpAddr⟩) s
  let s := if b.resume then wakeRect s ((b.cells w).map (·.1)) else s
  let s := { s with ready := s.ready.filter (fun x => !(x.route == r.id && x.wp == wp && x.inst == b.inst)) }
  let s := putWpState s (readWp s r.id wp).2 2 w.alive w.launched
  (bindAnswer s b 0).post (.waypointEvaluate r.id wp)

/-- A bind record carried out (R261). Where its waypoint address belongs to no started route that has not completed,
R261 names no outcome: code 2, as for a rejected launch, with no error record (DESIGN CHOICE, log entry 78). A poisoned
record is taken as its bytes stand (DESIGN CHOICE, log entry 88). -/
def bindRun (a : Nat) (resume : Bool) (s : State) : State :=
  let v := physRead s a 64
  let b := { parseBind v.2.1 with resume := resume }
  let s := v.1
  match s.wpAt b.wpAddr with
  | none => bindAnswer s b 2
  | some (r, wp) =>
    let w := (readWp s r.id wp).2
    if 24 < b.x0 + w.rectW ∨ 16 < b.y0 + w.rectH ∨ (b.cells w).any (fun c => (s.slotEntry c.1).state != 0) then
      bindAnswer s b 1
    else if launchBad w ∨ !s.tableOk b.table then bindReject s b r wp 2
    else
      let args := if resume then (s, some []) else readArgs s b w
      let imgs := allImages args.1 b w
      match args.2, imgs.2 with
      | some bs, some ps =>
        if resume && ps.any (fun img => resumeRefused imgs.1 img w.roles) then bindReject imgs.1 b r wp 3
        else bindStart imgs.1 b r wp w ps bs
      | _, _ => bindReject imgs.1 b r wp 2

/-- BIND (R261): a fresh bind. -/
def execBind (addr : DWord) (s : State) : Out := .next (s.ifUp (bindRun addr.toNat false))

/-- BIND.RESUME (R261, R264). -/
def execBindResume (addr : DWord) (s : State) : Out := .next (s.ifUp (bindRun addr.toNat true))

/-! ## Leaving a core (R175, R289) -/

/-- The fences take effect: those ordered or lifted, and after a marked lane group those of the groups and units that
the self-test finds at fault, or else of the marked groups. -/
def departCore (s : State) (c : Nat) : State :=
  s.modCore c (fun r =>
    let r := r.takeOrders
    if r.lgMarked = 0 then r
    else
      let bad := r.struck s.clock
      let found := bad.faultyGroups ||| bad.faultyUnits != 0
      { r with
        lgFence := r.lgFence ||| (if found then bad.faultyGroups else r.lgMarked)
        unitFence := r.unitFence ||| bad.faultyUnits
        lgMarked := 0 })

/-- A rectangle's cores. -/
def State.rectCores (s : State) (rect : Nat) : List Nat :=
  sortNat ((s.slots.filter (fun e => e.state == 2 && e.rect == rect)).map (·.core))

/-- Blocks, threads and commands of a core go. -/
def removeBlock (s : State) (c : Nat) : State :=
  { s with
    blocks := s.blocks.filter (fun b => b.core != c)
    threads := s.threads.filter (fun t => t.core != c)
    copies := s.copies.filter (fun k => !k.block.any (fun b => b.1 == c)) }

/-- What a core's block has written reaches the homes: posted writes and dirty data (R225 to R227). -/
def settleCore (s : State) (c : Nat) : State :=
  drainCore ((s.threadsOf c).foldl (fun s t => noteRelease (flushPosted s c t.slot) (threadWriter c t.slot)) s) c
    (fun _ => true)

/-! ## PREEMPTDB (R264) -/

/-- The record of each tag (R86): outstanding when the save began. A result that was poisoned or lost and so has written
nothing (R287) counts as committed, a point that R86 leaves open (DESIGN CHOICE, log entry 60). -/
def pendRecord (t : Thread) (n : Nat) : Nat :=
  match t.pend.find? (fun p => p.tag == n) with
  | some p => 2 ^ 63 + p.size % 8 * 2 ^ 60 + p.code.toNat * 2 ^ 51
  | none => 0

/-- The state word (R85). Where SHDEPTH_V is 0, what SHDEPTH holds is left open: here 0 (DESIGN CHOICE, log entry 59).
-/
def Thread.stateWord (t : Thread) : Nat :=
  b2n t.live * 2 ^ 31 + roleCode t.role * 2 ^ 28 + t.stack.length % 128 * 2 ^ 21 + t.loops.length % 8 * 2 ^ 18 +
    b2n t.shadowV * 2 ^ 17 + (if t.shadowV then t.shadow.length % 8 else 0) * 2 ^ 12 + Nat.min t.age 4095

/-- What has to end before a thread is saved: a commit that has begun ends, an open transaction aborts with PREEMPT
(R245), then the tags are noted and commit; the first poisoned or lost result is kept for the resumption (R287). -/
def quiesceThread (c : Nat) (s : State) (q : Nat) : State :=
  let s := match (s.thread c q).wait with
    | .commit _ => runOut (execTxCommit c q s) s
    | _ => s
  let s := abortTx s c q txPreempt 0
  let t := s.thread c q
  let s := [0, 1, 2, 3, 4, 5, 6].foldl (fun s n => saveWrite s c (threadRecord q + 0x6A0 + 8 * n) (pendRecord t n) 8) s
  let r := commitAll s c q
  match r.2 with
  | none => r.1
  | some p => r.1.modThread c q (fun t => match p.lost with
      | some k => { t with pendLost := some k }
      | none => { t with pendPoison := true })

/-- The sectors of a part of an image take their marks. -/
def markImage (s : State) (c off n : Nat) : State :=
  match imgAddr (s.block c) off with
  | some pa => { s with poison := (sectorsOf pa n).foldl insertNat s.poison }
  | none => s

/-- One thread record (R84). The return stack is written as the thread holds it, the entries that had spilled among
them; a handler that has changed those in memory meanwhile the manual does not speak of (DESIGN CHOICE, log entry 77).
-/
def saveThread (c : Nat) (s : State) (x : Nat × RoleRow) : State :=
  let q := x.1
  let a := threadRecord q
  let t := s.thread c q
  let s := (List.range (8 * x.2.adiv8)).foldl (fun s n => saveWrite s c (a + 4 * n) (SMap.get t.regs n).toNat 4) s
  let s := saveWrite s c (a + 0x600) t.pc.toNat 8
  let s := saveWrite s c (a + 0x608) t.tst.toNat 4
  let s := saveWrite s c (a + 0x60C) t.stateWord 4
  let s := saveWrite s c (a + 0x610) (t.preds ||| 1#16).toNat 4
  let s := writeLevels s c (a + 0x620) t.loops
  let s := (t.stack.zipIdx).foldl (fun s e => saveWrite s c (a + 0x700 + 8 * e.2) e.1.toNat 8) s
  let s := saveWrite s c (a + 0x900) t.tpc.toNat 8
  let s := saveWrite s c (a + 0x908) t.taddr.toNat 8
  let s := saveWrite s c (a + 0x910) t.tcause.toNat 4
  let s := saveWrite s c (a + 0x934) (recordFlags t) 4
  let s := saveWrite s c (0x550000 + 4 * q) t.batch.toNat 4
  t.regPoison.foldl (fun s n => if n < 8 * x.2.adiv8 then markImage s c (a + 4 * n) 4 else s) s

/-- Writes in flight to the block's registers are over. -/
def Block.foldPending (b : Block) : Block :=
  let last := fun (ws : List RegWrite) (v : DWord) => regSeen ws 0 none v
  { b with
    uni := SMap.ofFun 64 (fun n => match uniBest (b.uniPend.filter (fun w => w.reg == n)) with
      | some w => w.value
      | none => SMap.get b.uni n)
    uniPend := []
    tvec := last b.tvecPend b.tvec
    tvecPend := []
    rnsCfg := (last b.rnsPend (b.rnsCfg.setWidth 64)).setWidth 32
    rnsPend := []
    roles := b.prioPend.foldl (fun rs p => rs.map (fun r => if r.role = p.2.1 then { r with prio := p.2.2 } else r))
      b.roles
    prioPend := [] }

/-- An accumulator header (R83, R164). -/
def saveAcc (c : Nat) (b : Block) (s : State) (n : Nat) : State :=
  let a := 0xA00 + 0x40 * n
  let s := saveWrite s c a (SMap.get b.accE n).toNat 2
  let s := saveWrite s c (a + 2) (b2n (!b.accFixed.contains n)) 1
  let byte := fun (s : State) (m : SMap 8) => (List.range 32).foldl (fun s i =>
    saveWrite s c (a + 0x20 + i) (SMap.get m i).toNat 1) s
  match b.quad? n with
  | none => if n % 4 = 0 then saveWrite (saveWrite s c (a + 8) 0 8) c (a + 0x10) 0 4 else s
  | some u =>
    match n % 4 with
    | 0 => saveWrite (saveWrite (saveWrite s c (a + 8) u.ktotal.toNat 8) c (a + 0x10) u.d 1) c (a + 0x12) u.chset.toNat 2
    | 1 => byte s u.ea
    | 2 => byte s u.eb
    | _ => s

/-- The matrix state of an image. -/
def saveMatrix (c : Nat) (b : Block) (s : State) : State :=
  let s := (List.range 16).foldl (fun s t =>
    let a := 0x600 + 0x40 * t
    let s := saveWrite s c a (SMap.get b.tileFmt t).toNat 1
    let s := saveWrite s c (a + 1) ((SMap.get b.tileGeo t).toNat % 16) 1
    saveWrite s c (a + 2) (SMap.get b.tileKeff t).toNat 1) s
  let s := (List.range 512).foldl (fun s k =>
    let s := saveWrite s c (0x620 + 0x40 * (k / 32) + k % 32) (SMap.get b.tileTags k).toNat 1
    saveWrite s c (0x8000 + 0x40 * k) (SMap.get b.tileRows k).toNat 64) s
  let s := (List.range 32).foldl (saveAcc c b) s
  let s := (List.range 32768).foldl (fun s k =>
    saveWrite s c (0x10000 + 8 * k) ((SMap.get b.accM k).toNat + (SMap.get b.accSt k).toNat * 2 ^ 48) 8) s
  b.tilePoison.foldl (fun s k => markImage s c (0x8000 + 0x40 * k) 64) s

/-- The buffers of an image (R262), with their marks. -/
def saveBuffers (c : Nat) (b : Block) (s : State) : State :=
  let s := (List.range (xBytes / 32)).foldl (fun s k =>
    saveWrite s c (0x600000 + 32 * k) (leNat (readBytes b.xbuf (32 * k) 32)) 32) s
  let s := (List.range (0x300000 / 32)).foldl (fun s k =>
    saveWrite s c (0x800000 + 32 * k) (leNat (readBytes b.wbuf (32 * k) 32)) 32) s
  let s := (List.range 48).foldl (fun s r =>
    saveWrite s c (0xB00000 + 2 * r) ((SMap.get b.wfmt r).toNat + 256 * (SMap.get b.wgeo r).toNat) 2) s
  let s := b.xpoison.foldl (fun s k => markImage s c (0x600000 + 32 * k) 32) s
  b.wpoison.foldl (fun s u => markImage s c (0x800000 + 64 * u) 64) s

def copyKindCode : CopyKind → Nat
  | .tcpy => 0
  | .pfetch => 1
  | .coll => 2

/-- One copy record (R281). -/
def saveCopy (c : Nat) (s : State) (x : CopyCmd × Nat) : State :=
  let k := x.1.loaded
  let o := 0x552000 + 64 * x.2
  let s := saveWrite s c o k.desc.toNat 8
  let s := saveWrite s c (o + 8) ((k.cw.map (·.toNat)).getD 0) 8
  let s := saveWrite s c (o + 0x10) k.pos 8
  let s := saveWrite s c (o + 0x18) k.pos 8
  let s := saveWrite s c (o + 0x20) ((k.batch.map (·.toNat)).getD 0xFFFFFFFF) 4
  let s := saveWrite s c (o + 0x24) ((k.block.map (·.2)).getD 0) 2
  let s := saveWrite s c (o + 0x26) ((k.arv.map (fun n => 128 + n)).getD 0) 1
  saveWrite s c (o + 0x27) (copyKindCode k.kind) 1

/-- The block part of an image. -/
def saveBlockPart (c : Nat) (b : Block) (s : State) : State :=
  let s := writeSeqRecord s c
  let s := saveWrite s c 0x30 b.tvec.toNat 8
  let s := saveWrite s c 0x40 b.rnsCfg.toNat 4
  let s := saveWrite s c 0x44 b.fixCnt.toNat 4
  let s := saveWrite s c 0x48 (b2n b.fixSeen + 2 * b2n b.misSeen + 4 * b2n b.rngSeen) 4
  let s := saveWrite s c 0x54 ((b.roles.map (fun r => r.prio % 16 * 2 ^ (8 * roleCode r.role))).sum) 4
  let s := (List.range 64).foldl (fun s n => saveWrite s c (0x100 + 4 * n) (SMap.get b.uni n).toNat 4) s
  (List.range 32).foldl (fun s k => saveWrite s c (0x200 + 0x20 * k) (SMap.get b.proj k).toNat 32) s

/-- Bytes of an image that a save leaves as they stand: of a role's slot the registers above A, the tag records just
written, and the fault record and shadow, whose fields keep what the latest trap entry wrote (R84, R86, R270); and what
lies outside the layouts. -/
def saveKeeps (roles : List RoleRow) (o : Nat) : Bool :=
  if 0x600000 ≤ o then 0xB00060 ≤ o
  else if 0x550000 ≤ o then false
  else if o < 0x50000 then false
  else
    let x := (o - 0x50000) % 0xA00
    aboveRegs roles o || ((rowRole roles (rowOf ((o - 0x50000) / 0xA00))).isSome &&
      ((0x6A0 ≤ x && x < 0x6D8) || (0x900 ≤ x && x < 0x938) || (0x940 ≤ x && x < 0x9C0 && (x - 0x940) % 32 < 0x18)))

/-- Every other byte of an image becomes zero, reserved fields among them (R8, R83, R280); what is not zero is written
after. The save writes the whole area (R83), so that every sector of it loses its mark (R285), also the sectors of the
tag records and of the fields that keep their value; but not those of the registers above A. -/
def clearImage (s : State) (b : Block) : State :=
  let s := b.img.foldl (fun s p => obtain s p 65536 2) s
  let gone := fun (a : Nat) => match imgOffset b.img a with
    | some o => !saveKeeps b.roles o
    | none => false
  let s := noteReplaced s 0 ((s.mem.filter (fun x => gone x.1)).map (·.1))
  { s with
    mem := SMap.keep s.mem (fun a => !gone a)
    poison := s.poison.filter (fun k =>
      !(imgOffset b.img (32 * k)).any (fun o => o < 0xB00060 && !aboveRegs b.roles o)) }

/-- What ends before a block is saved: the arrivals of the clock, threads' commits, transactions and results, copy
commands' reports, arrivals owed, a sequencer's half-made MBAR.SYNC (R151, R264). -/
def quiesceBlock (s : State) (c : Nat) : State :=
  let s := settleArrivals s c
  let s := ((s.threadsOf c).map (·.slot)).foldl (quiesceThread c) s
  let done := (s.copies.filter (fun (k : CopyCmd) => k.block.any (fun b => b.1 == c) && k.ended.isSome)).map (·.id)
  let s := done.foldl (fun s id => runOut (execCopyCommandEnd id s) s) s
  let s := (s.block c).seq.owed.foldl (fun s o => arrive s c o.1 true) s
  seqSettle s c

/-- A block leaves its core for its image (R264). A retired or killed block is saved as one with nothing left to do. -/
def preemptBlock (s : State) (c : Nat) : State :=
  let s := settleCore (quiesceBlock s c) c
  let s := s.modBlock c (fun b =>
    let b := b.foldPending
    if b.retired || b.killed then { b with seq := { b.seq with state := .idle } } else b)
  let b := s.block c
  let s := saveBlockPart c b (clearImage s b)
  let s := saveMatrix c b s
  let s := saveBuffers c b s
  let s := (roleSlots b.roles).foldl (saveThread c) s
  let ks := s.copies.filter (fun (k : CopyCmd) => k.block.any (fun x => x.1 == c) && k.ended.isNone)
  let s := (ks.zipIdx).foldl (saveCopy c) (saveWrite s c 0x50 ks.length 4)
  let fences := ((s.threadsOf c).filter (fun t => t.relFence != 0)).map (fun t => (b.key, t.slot, t.relFence))
  let s := { s with
    parked := s.parked.filter (fun p => p.1 != b.key) ++ ks.map (fun k => (b.key, k))
    parkedFences := s.parkedFences.filter (fun p => p.1 != b.key) ++ fences }
  let s := if b.retired then s else departCore s c
  (removeBlock s c).setSlot (SlotEntry.blank c)

/-- A pre-emption (R264). The completion word of a 16-byte record, at a physical address, takes the layout of R283. A
poisoned record is taken as its bytes stand (DESIGN CHOICE, log entry 88). -/
def preemptRun (addr : DWord) (s : State) : State :=
  let v := physRead s addr.toNat 16
  let tag := field v.2.1 0 2
  let cw := field v.2.1 8 8
  let cores := v.1.rectCores tag
  let s := cores.foldl preemptBlock v.1
  let code := if !cores.isEmpty then 0
    else if s.slots.any (fun e => e.state == 0 && e.rect == tag && e.wpAddr != 0) then 1 else 2
  physWrite s cw (completionValue 0 0 code) 8

/-- PREEMPTDB, of a package that is up (R317, R320). -/
def execPreemptdb (addr : DWord) (s : State) : Out := .next (s.ifUp (preemptRun addr))

/-! ## The end of a block (R60, R57, R265) -/

/-- A block has nothing left to do, or was killed (R279). -/
def blockOver (s : State) (b : Block) : Bool :=
  !b.retired && (b.killed || ((s.threadsOf b.core).all (fun t => !t.live) && b.seq.state == .idle)) &&
    s.copies.all (fun (k : CopyCmd) => !k.block.any (fun x => x.1 == b.core) || k.reported)

/-- BLOCK_RETIRE (R60): the block retires; with the last of its rectangle the instance ends, every byte written in it
reaches its home (R237), and the cores become FREE. -/
def execBlockRetire (core : Nat) (s : State) : Out :=
  .next (match s.block? core with
    | none => s
    | some b =>
      if !blockOver s b then s
      else
        let s := departCore (s.modBlock core (fun b => { b with retired := true })) core
        let cores := s.rectCores b.rect
        if cores.any (fun c => !(s.block c).retired) then s
        else
          let s := cores.foldl settleCore s
          let s := cores.foldl (fun s c => (removeBlock s c).setSlot { s.slotEntry c with state := 0 }) s
          let w := (readWp s b.route b.wp).2
          if (s.route? b.route).isNone then s
          else
            ((putWpState s w w.state (w.alive - 1) w.launched).post (.waypointEvaluate b.route b.wp)).post
              (.waypointComplete b.route b.wp))

end Sys2Proof.Machine
end

