-- ==== Sys2Proof/Machine/Errors.lean ====
section
/-! DEFINITION. Errors of the memories and links: poison marks (R285, R286) and leaky-bucket counters (R288, R289). -/

namespace Sys2Proof.Machine

/-- The first result under a tag is struck; what is already poisoned or lost stays so. EXTRA tells the X-buffer from
memory (R272). -/
def strikePending (tag : Nat) : List Pending → List Pending
  | [] => []
  | p :: r =>
    if p.tag == tag then { p with poison := some (p.poison.getD (if p.kind = 5 then 1 else 0)) } :: r
    else p :: strikePending tag r

/-- The n-th entry of a list changed. -/
def modNth {α : Type} (n : Nat) (f : α → α) (l : List α) : List α := l.zipIdx.map (fun x => if x.2 = n then f x.1 else x.1)

/-- A sector of a core's L1 struck: data, or the deltas of an update-only region. -/
def CoreRec.strike (k : Nat) (r : CoreRec) : CoreRec :=
  { r with
    sectors := r.sectors.map (fun x => if x.sector == k then { x with poison := true } else x)
    updates := r.updates.map (fun u => { u with
      deltas := u.deltas.map (fun d => if d.addr / 32 = k then { d with poison := true } else d) }) }

/-- UNCORRECTABLE_ERROR (R285): the unit is marked and nothing is raised. -/
def execUncorrectableError (unit : PoisonUnit) (s : State) : Out :=
  .next (match unit with
    | .memory k => { s with poison := insertNat s.poison k }
    | .foreignWay co k => { s with foreignWays := s.foreignWays.map (fun f =>
        if f.1 = co ∧ f.2.1 = k then (f.1, f.2.1, f.2.2.1, true) else f) }
    | .posted c q n => s.modThread c q (fun t => { t with posted := modNth n (fun p => { p with poison := true }) t.posted })
    | .l1 c k => s.modCore c (CoreRec.strike k)
    | .txRead c q n => s.modThread c q (fun t => { t with tx := t.tx.map (fun x =>
        { x with reads := modNth n (fun e => { e with poison := true }) x.reads }) })
    | .txWrite c q n => s.modThread c q (fun t => { t with tx := t.tx.map (fun x =>
        { x with writes := modNth n (fun e => { e with poison := true }) x.writes }) })
    | .xbuf c k => s.modBlock c (fun b => if k < 65536 then { b with xpoison := insertNat b.xpoison k } else b)
    | .wbuf c u => s.modBlock c (fun b => if u < 49152 then { b with wpoison := insertNat b.wpoison u } else b)
    | .tileRow c t r => s.modBlock c (fun b =>
        if t < 16 ∧ r < 32 then { b with tilePoison := insertNat b.tilePoison (32 * t + r) } else b)
    | .pending c q tag => s.modThread c q (fun t => { t with pend := strikePending tag t.pend })
    | .register c q n => s.modThread c q (fun t => { t with regPoison := insertNat t.regPoison n }))

/-- How many counters there are of a kind (R288). -/
def counterCount : CounterKind → Nat
  | .bank => 16384
  | .lane => 64
  | .cohort => 16
  | .laneGroup => 3840

/-- The corrected errors of a stack since boot (R323): 1,024 banks lie in each. -/
def countHbm (s : State) (kind : CounterKind) (inst : Nat) : State :=
  if kind = .bank then { s with hbmErrors := SMap.set s.hbmErrors (inst / 1024) (SMap.get s.hbmErrors (inst / 1024) + 1) }
  else s

/-- CORRECTED_ERROR (R288, R289). -/
def execCorrectedError (kind : CounterKind) (inst : Nat) (corepos : Word) (s : State) : Out :=
  .next (if inst < counterCount kind then countEvent (countHbm s kind inst) kind inst corepos.toNat else s)

/-- LEAK_TICK (R288): at a whole multiple of the kind's period a counter above zero loses one. -/
def execLeakTick (kind : CounterKind) (inst : Nat) (s : State) : Out :=
  let p := (s.leakOf kind).1
  .next (if p ≠ 0 ∧ s.timeUs % p = 0 then s.setCounter kind inst (s.counter kind inst - 1) else s)

end Sys2Proof.Machine
end

