-- ==== Sys2Proof/Machine/Special.lean ====
section
/-! DEFINITION. The five approximated functions of R129, exact but for one rounding to the 22-bit grid. Each is
evaluated in fixed point with at least 240 correct bits beyond the point and one sticky bit; no F32 argument but the
listed special ones has an exact result, so the rounding is that of the exact value (log entry 8). -/

namespace Sys2Proof.Machine

/-- Fraction bits of the working fixed point. -/
def fxBits : Nat := 320

/-- ⌊ln 2 × 2^320⌋. -/
def fxLn2 : Nat := 0xb17217f7d1cf79abc9e3b39803f2f6af40f343267298b62d8a0d175b8baafa2be7b876206debac98

/-- ⌊π × 2^640⌋. -/
def fxPi : Nat := 0x3243f6a8885a308d313198a2e03707344a4093822299f31d0082efa98ec4e6c89452821e638d01377be5466cf34e90c6cc0ac29b7c97c50dd3f84d5b5b54709179216d5d98979fb1bd1310ba698dfb5ac

/-- Σ of the terms of a power series in `t`: each next term is the last times `num`, shifted, over `den k`; the signs
alternate when `alt`. -/
def series (alt : Bool) (num : Nat) (den : Nat → Nat) : Nat → Nat → Nat → Bool → Int → Int
  | 0, _, _, _, acc => acc
  | fuel + 1, k, term, neg, acc =>
    let acc' := if neg then acc - term else acc + term
    series alt num den fuel (k + 1) (term * num / 2 ^ fxBits / den k) (if alt then !neg else neg) acc'

/-- e^t for 0 ≤ t < 1, in fixed point. -/
def fxExp (t : Nat) : Nat := (series false t (fun k => k + 1) 80 0 (2 ^ fxBits) false 0).toNat

/-- sin t and cos t for 0 ≤ t < 1.6, in fixed point. -/
def fxSin (t : Nat) : Int := series true (t * t / 2 ^ fxBits) (fun k => (2 * k + 2) * (2 * k + 3)) 48 0 t false 0
def fxCos (t : Nat) : Int :=
  series true (t * t / 2 ^ fxBits) (fun k => (2 * k + 1) * (2 * k + 2)) 48 0 (2 ^ fxBits) false 0

/-- Σ z^(2k+1) / (2k+1): atanh z for 0 ≤ z ≤ 1/3, in fixed point. -/
def fxAtanhGo : Nat → Nat → Nat → Nat → Nat → Nat
  | 0, _, _, _, acc => acc
  | fuel + 1, k, p, z2, acc => fxAtanhGo fuel (k + 1) (p * z2 / 2 ^ fxBits) z2 (acc + p / (2 * k + 1))

def fxAtanh (z : Nat) : Nat := fxAtanhGo 110 0 z (z * z / 2 ^ fxBits) 0

/-- m × 2^e in fixed point; exact for every F32 value below 2^8 in magnitude, rounded down otherwise. -/
def fxOf (m : Nat) (e : Int) : Nat :=
  let s := e + fxBits
  if 0 ≤ s then m * 2 ^ s.toNat else m / 2 ^ (-s).toNat

/-- The 22-bit grid of R129. -/
def onGrid (neg : Bool) (m : Nat) (e : Int) (sticky : Bool) : Nat × Flags :=
  fmtF32.roundPrec 22 .rne false neg m e sticky

/-- An inexact positive fixed-point value `v × 2^(e − 320)`, taken a little low with the sticky bit set. -/
def fromFx (neg : Bool) (v : Nat) (e : Int) : Nat × Flags := onGrid neg (v - 2 ^ 20) (e - fxBits) true

/-- A value just below m × 2^e in magnitude: what an odd function of slope one gives for a tiny argument. -/
def justBelow (neg : Bool) (m : Nat) (e : Int) : Nat × Flags := onGrid neg (m * 2 ^ 64 - 1) (e - 64) true

/-- 2^x (R129). -/
def fEx2 (a : FVal) : Nat × Flags :=
  match a with
  | .nan => (fmtF32.qnan, 0)
  | .inf true => (0, 0)
  | .inf false => (fmtF32.infinity false, 0)
  | .zero _ => (0x3F800000, 0)
  | .fin s m e =>
    if 8 ≤ topExp m e then
      if s then onGrid false 1 (-400) true else (fmtF32.infinity false, Flags.of ||| Flags.nx)
    else
      let x : Int := signedM s (fxOf m e)
      let n : Int := x / (2 ^ fxBits : Int)
      let f : Nat := (x % (2 ^ fxBits : Int)).toNat
      if f = 0 then onGrid false 1 n false
      else fromFx false (fxExp (f * fxLn2 / 2 ^ fxBits)) n

/-- log2 x (R129). -/
def fLg2 (a : FVal) : Nat × Flags :=
  match a with
  | .nan => (fmtF32.qnan, 0)
  | .inf false => (fmtF32.infinity false, 0)
  | .zero _ => (fmtF32.infinity true, Flags.dz)
  | .inf true | .fin true _ _ => (fmtF32.qnan, Flags.iv)
  | .fin false m e =>
    let n := topExp m e
    let one := 2 ^ fxBits
    let g := m * 2 ^ (fxBits + 1 - bitLen m)
    if g = one then
      if n = 0 then (0, 0) else onGrid (n < 0) n.natAbs 0 false
    else
      let l : Nat := 2 * fxAtanh ((g - one) * one / (g + one)) * one / fxLn2
      let v : Int := n * one + l
      fromFx (v < 0) v.natAbs 0

/-- The quadrant of |x| and what remains of it in [0, π/2) (R130). -/
def reduceHalfPi (m : Nat) (e : Int) : Nat × Nat :=
  let x := if 0 ≤ e + 640 then m * 2 ^ (e + 640).toNat else m / 2 ^ (-(e + 640)).toNat
  let halfPi := fxPi / 2
  -- π/2 × k to 640 bits for k below 2^130 leaves an error below 2^-510
  (x / halfPi, x % halfPi / 2 ^ (640 - fxBits))

/-- SIN (R129). -/
def fSin (a : FVal) : Nat × Flags :=
  match a with
  | .nan => (fmtF32.qnan, 0)
  | .inf _ => (fmtF32.qnan, Flags.iv)
  | .zero s => (fmtF32.signBit s, 0)
  | .fin s m e =>
    if topExp m e < -40 then justBelow s m e
    else
      let r := reduceHalfPi m e
      let q := r.1 % 4
      let v := if q % 2 = 0 then fxSin r.2 else fxCos r.2
      fromFx (s != (q ≥ 2)) v.toNat 0

/-- COS (R129). -/
def fCos (a : FVal) : Nat × Flags :=
  match a with
  | .nan => (fmtF32.qnan, 0)
  | .inf _ => (fmtF32.qnan, Flags.iv)
  | .zero _ => (0x3F800000, 0)
  | .fin _ m e =>
    if topExp m e < -40 then justBelow false 1 0
    else
      let r := reduceHalfPi m e
      let q := r.1 % 4
      let v := if q % 2 = 0 then fxCos r.2 else fxSin r.2
      fromFx (q == 1 || q == 2) v.toNat 0

/-- TANH (R129). -/
def fTanh (a : FVal) : Nat × Flags :=
  match a with
  | .nan => (fmtF32.qnan, 0)
  | .inf s => (fmtF32.signBit s + 0x3F800000, 0)
  | .zero s => (fmtF32.signBit s, 0)
  | .fin s m e =>
    if topExp m e < -40 then justBelow s m e
    else if 9 * 2 ^ fxBits ≤ fxOf m e ∨ 8 ≤ topExp m e then justBelow s 1 0
    else
      let t := 2 * fxOf m e
      let k := t / fxLn2
      let ex := fxExp (t % fxLn2) * 2 ^ k
      let one := 2 ^ fxBits
      fromFx s ((ex - one) * one / (ex + one)) 0

end Sys2Proof.Machine
end

