-- ==== Sys2Proof/Machine/Float.lean ====
section
/-! DEFINITION. Classes 2 and 3: floating point (R398 to R412) and the special functions (R128 to R130, R393, R458,
R475). -/

namespace Sys2Proof.Machine

/-- A source read in a floating format (R399). -/
def readFloat (s : State) (c q : Nat) (t : Ty) (o : Opnd) : FVal :=
  (fmtOf t).decode ((readWord s c q o).toNat % 2 ^ (fmtOf t).width)

/-- The code of a source in a floating format. -/
def readCode (s : State) (c q : Nat) (t : Ty) (o : Opnd) : Nat :=
  (readWord s c q o).toNat % 2 ^ (fmtOf t).width

/-- A word of two floating sources. -/
def floatWord2 (i : Instr) (w : FForm) (f : FVal → FVal → Nat × Flags) (s : State) : State :=
  fixedWord i w.d w.nwb 1 (fun c q s => f (readFloat s c q w.ty w.a) (readFloat s c q w.ty w.b)) s

/-- A word of a floating source and an F32 immediate. -/
def floatWordImm (i : Instr) (w : IForm) (f : FVal → FVal → Nat × Flags) (s : State) : State :=
  fixedWord i w.d w.nwb 1 (fun c q s => f (readFloat s c q .f32 w.a) (fmtF32.decode w.imm.toNat)) s

/-- A class 3 word: one F32 source, the result under a tag. -/
def specialWord (i : Instr) (w : FForm) (f : FVal → Nat × Flags) (s : State) : State :=
  tagWord i w.ctl.alloc w.d 1 (fun c q s => f (readFloat s c q .f32 w.a)) s

/-- FADD, form F (R400). -/
def execFadd (w : FForm) (s : State) : Out := .next (floatWord2 (.fadd w) w (fAdd (fmtOf w.ty) w.rm) s)

/-- FADD, form I (R400). -/
def execFaddImm (w : IForm) (s : State) : Out := .next (floatWordImm (.faddImm w) w (fAdd fmtF32 w.rm) s)

/-- FCLASS (R401). -/
def execFclass (w : FForm) (s : State) : Out :=
  .next (fixedWord (.fclass w) w.d w.nwb 1 (fun c q s => (fClass (fmtOf w.ty) (readCode s c q w.ty w.a), 0)) s)

/-- FCMP (R402). -/
def execFcmp (w : FForm) (s : State) : Out :=
  .next (predWord (.fcmp w) w.prd (fun c q s =>
    fCond w.cond (readFloat s c q w.ty w.a) (readFloat s c q w.ty w.b)) s)

/-- FCVT (R403, R404). -/
def execFcvt (w : FForm) (s : State) : Out :=
  .next (fixedWord (.fcvt w) w.d w.nwb w.ty.regs (fun c q s =>
    convert w.ty w.ty2 w.rm w.sat (readSrc s c q w.a w.ty2.regs)) s)

/-- FDIV (R405). -/
def execFdiv (w : FForm) (s : State) : Out :=
  .next (tagWord (.fdiv w) w.ctl.alloc w.d 1 (fun c q s =>
    fDiv fmtF32 w.rm (readFloat s c q .f32 w.a) (readFloat s c q .f32 w.b)) s)

/-- FFMA (R408). -/
def execFfma (w : FForm) (s : State) : Out :=
  .next (fixedWord (.ffma w) w.d w.nwb 1 (fun c q s =>
    fFma (fmtOf w.ty) w.rm (readFloat s c q w.ty w.a) (readFloat s c q w.ty w.b) (readFloat s c q w.ty w.c)) s)

/-- FMAX, form F (R410). -/
def execFmax (w : FForm) (s : State) : Out :=
  .next (fixedWord (.fmax w) w.d w.nwb 1 (fun c q s =>
    (fMax (fmtOf w.ty) (readCode s c q w.ty w.a) (readCode s c q w.ty w.b), 0)) s)

/-- FMAX, form I (R410). -/
def execFmaxImm (w : IForm) (s : State) : Out :=
  .next (fixedWord (.fmaxImm w) w.d w.nwb 1 (fun c q s =>
    (fMax fmtF32 (readCode s c q .f32 w.a) w.imm.toNat, 0)) s)

/-- FMIN, form F (R410). -/
def execFmin (w : FForm) (s : State) : Out :=
  .next (fixedWord (.fmin w) w.d w.nwb 1 (fun c q s =>
    (fMin (fmtOf w.ty) (readCode s c q w.ty w.a) (readCode s c q w.ty w.b), 0)) s)

/-- FMIN, form I (R410). -/
def execFminImm (w : IForm) (s : State) : Out :=
  .next (fixedWord (.fminImm w) w.d w.nwb 1 (fun c q s =>
    (fMin fmtF32 (readCode s c q .f32 w.a) w.imm.toNat, 0)) s)

/-- FMUL, form F (R411). -/
def execFmul (w : FForm) (s : State) : Out := .next (floatWord2 (.fmul w) w (fMul (fmtOf w.ty) w.rm) s)

/-- FMUL, form I (R411). -/
def execFmulImm (w : IForm) (s : State) : Out := .next (floatWordImm (.fmulImm w) w (fMul fmtF32 w.rm) s)

/-- FRND (R412). -/
def execFrnd (w : FForm) (s : State) : Out :=
  .next (fixedWord (.frnd w) w.d w.nwb 1 (fun c q s => (fRound (fmtOf w.ty) w.rm (readCode s c q w.ty w.a), 0)) s)

/-- COS (R393). -/
def execCos (w : FForm) (s : State) : Out := .next (specialWord (.cos w) w fCos s)

/-- EX2 (R393). -/
def execEx2 (w : FForm) (s : State) : Out := .next (specialWord (.ex2 w) w fEx2 s)

/-- LG2 (R393). -/
def execLg2 (w : FForm) (s : State) : Out := .next (specialWord (.lg2 w) w fLg2 s)

/-- RCP (R458). -/
def execRcp (w : FForm) (s : State) : Out := .next (specialWord (.rcp w) w (fRcp fmtF32 w.rm) s)

/-- RSQ (R458). -/
def execRsq (w : FForm) (s : State) : Out := .next (specialWord (.rsq w) w (fRsq fmtF32 w.rm) s)

/-- SIN (R475). -/
def execSin (w : FForm) (s : State) : Out := .next (specialWord (.sin w) w fSin s)

/-- SQRT (R475). -/
def execSqrt (w : FForm) (s : State) : Out := .next (specialWord (.sqrt w) w (fSqrt fmtF32 w.rm) s)

/-- TANH (R475). -/
def execTanh (w : FForm) (s : State) : Out := .next (specialWord (.tanh w) w fTanh s)

end Sys2Proof.Machine
end

