-- ==== Sys2Proof/Machine/Integer.lean ====
section
/-! DEFINITION. Class 0: the integer instructions (R354 to R356, R362, R363, R373, R374, R380, R387, R388, R421, R422,
R428, R430, R443, R447, R448, R452, R467, R468, R471, R481, R495). All are fixed latency and set no flag. -/

namespace Sys2Proof.Machine

/-! ## The values -/

/-- A result, saturated where SAT is set, modulo 2^n (R104). -/
def intResult (t : Ty) (sat : Bool) (x : Int) : Nat := tyEncode t (if sat then clampInt x (tyMin t) (tyMax t) else x)

def intAbs (t : Ty) (sat : Bool) (a : Nat) : Nat :=
  let y : Int := (tyValue t a).natAbs
  tyEncode t (if sat then min y (tyMax t) else y)

def intAdd (t : Ty) (sat : Bool) (a b : Nat) : Nat := intResult t sat (tyValue t a + tyValue t b)
def intSub (t : Ty) (sat : Bool) (a b : Nat) : Nat := intResult t sat (tyValue t a - tyValue t b)

/-- MAD and, with C zero, MUL (R428, R443). -/
def intMad (t : Ty) (sat hi : Bool) (a b c : Nat) : Nat :=
  let p := tyValue t a * tyValue t b + tyValue t c
  if hi then tyEncode t (p / (2 ^ t.bits : Int)) else intResult t sat p

def intMin (t : Ty) (a b : Nat) : Nat := if tyValue t b < tyValue t a then b else a
def intMax (t : Ty) (a b : Nat) : Nat := if tyValue t a < tyValue t b then b else a

/-- Position and width of a bit field of a type (R373, R374). -/
def fieldPos (n c : Nat) : Nat := Nat.min (bits c 7 0) n
def fieldWidth (n c : Nat) : Nat := Nat.min (bits c 15 8) (n - fieldPos n c)

def intBfi (t : Ty) (a b c : Nat) : Nat :=
  let p := fieldPos t.bits c
  let w := fieldWidth t.bits c
  a - a / 2 ^ p % 2 ^ w * 2 ^ p + b % 2 ^ w * 2 ^ p

def intBfx (t : Ty) (a c : Nat) : Nat :=
  let w := fieldWidth t.bits c
  let f := a / 2 ^ fieldPos t.bits c % 2 ^ w
  if w = 0 then 0 else tyEncode t (if t.signed && bit f (w - 1) then (f : Int) - 2 ^ w else f)

/-- Bits n−1 to 0 in reverse order. -/
def bitReverse : Nat → Nat → Nat
  | 0, _ => 0
  | n + 1, a => a % 2 * 2 ^ n + bitReverse n (a / 2)

/-- Set bits among the low n. -/
def popCount : Nat → Nat → Nat
  | 0, _ => 0
  | n + 1, a => a % 2 + popCount n (a / 2)

def intClz (t : Ty) (a : Nat) : Nat := t.bits - bitLen (a % 2 ^ t.bits)

/-- The six integer comparisons (R388). -/
def intCond (t : Ty) (cond a b : Nat) : Bool :=
  let x := tyValue t a
  let y := tyValue t b
  match cond with
  | 0 => x == y
  | 1 => x != y
  | 2 => x < y
  | 3 => x ≤ y
  | 4 => y < x
  | _ => y ≤ x

def intShl (t : Ty) (a c : Nat) : Nat := if c < t.bits then a * 2 ^ c % 2 ^ t.bits else 0
def intShr (t : Ty) (a c : Nat) : Nat := if c < t.bits then a / 2 ^ c else 0
def intSha (t : Ty) (a c : Nat) : Nat := tyEncode t (tyValue t a / (2 ^ Nat.min c (t.bits - 1) : Int))

def intNot (t : Ty) (a : Nat) : Nat := 2 ^ t.bits - 1 - a % 2 ^ t.bits

/-- LEA (R421): an index scaled by a power of two; a shift of 64 or more adds nothing. -/
def leaValue (t : Ty) (a b c : Nat) : Nat :=
  if c < 64 then (((a : Int) + tyValue t b * 2 ^ c) % (2 ^ 64 : Int)).toNat else a

/-- IMM32 as operand B (R335). -/
def immB (w : IForm) : Nat := if w.ty = .i64 then (w.imm.signExtend 64).toNat else w.imm.toNat

/-! ## The shapes -/

/-- A word of two sources of the type's width. -/
def intWord2 (i : Instr) (w : FForm) (f : Nat → Nat → Nat) (s : State) : State :=
  fixedWord i w.d w.nwb w.ty.regs
    (fun c q s => (f (readSrc s c q w.a w.ty.regs) (readSrc s c q w.b w.ty.regs), 0)) s

/-- A word of one source, whose result is `n` registers. -/
def intWord1 (i : Instr) (w : FForm) (n : Nat) (f : Nat → Nat) (s : State) : State :=
  fixedWord i w.d w.nwb n (fun c q s => (f (readSrc s c q w.a w.ty.regs), 0)) s

/-- A word with an immediate. -/
def intWordImm (i : Instr) (w : IForm) (f : Nat → Nat) (s : State) : State :=
  fixedWord i w.d w.nwb w.ty.regs (fun c q s => (f (readSrc s c q w.a w.ty.regs), 0)) s

/-- A shift by a register. -/
def shiftWord (i : Instr) (w : FForm) (f : Nat → Nat → Nat) (s : State) : State :=
  fixedWord i w.d w.nwb w.ty.regs
    (fun c q s => (f (readSrc s c q w.a w.ty.regs) (readWord s c q w.b).toNat, 0)) s

/-! ## The instructions -/

/-- ABS (R356). -/
def execAbs (w : FForm) (s : State) : Out := .next (intWord1 (.abs w) w w.ty.regs (intAbs w.ty w.sat) s)

/-- ADD, form F (R362). -/
def execAdd (w : FForm) (s : State) : Out := .next (intWord2 (.add w) w (intAdd w.ty w.sat) s)

/-- ADD, form I (R362). -/
def execAddImm (w : IForm) (s : State) : Out :=
  .next (intWordImm (.addImm w) w (fun a => intAdd w.ty w.sat a (immB w)) s)

/-- AND, form F (R363). -/
def execAnd (w : FForm) (s : State) : Out := .next (intWord2 (.and w) w (fun a b => a &&& b) s)

/-- AND, form I (R363). -/
def execAndImm (w : IForm) (s : State) : Out := .next (intWordImm (.andImm w) w (fun a => a &&& (immB w)) s)

/-- BFI (R373). -/
def execBfi (w : FForm) (s : State) : Out :=
  .next (fixedWord (.bfi w) w.d w.nwb w.ty.regs (fun c q s =>
    (intBfi w.ty (readSrc s c q w.a w.ty.regs) (readSrc s c q w.b w.ty.regs) (readWord s c q w.c).toNat, 0)) s)

/-- BFX (R374). -/
def execBfx (w : FForm) (s : State) : Out :=
  .next (fixedWord (.bfx w) w.d w.nwb w.ty.regs (fun c q s =>
    (intBfx w.ty (readSrc s c q w.a w.ty.regs) (readWord s c q w.c).toNat, 0)) s)

/-- BREV (R380). -/
def execBrev (w : FForm) (s : State) : Out := .next (intWord1 (.brev w) w w.ty.regs (bitReverse w.ty.bits) s)

/-- CLZ (R387). -/
def execClz (w : FForm) (s : State) : Out := .next (intWord1 (.clz w) w 1 (intClz w.ty) s)

/-- CMP (R388). -/
def execCmp (w : FForm) (s : State) : Out :=
  .next (predWord (.cmp w) w.prd (fun c q s =>
    intCond w.ty w.cond (readSrc s c q w.a w.ty.regs) (readSrc s c q w.b w.ty.regs)) s)

/-- LEA (R421). -/
def execLea (w : FForm) (s : State) : Out :=
  .next (fixedWord (.lea w) w.d w.nwb 2 (fun c q s =>
    (leaValue w.ty (readSrc s c q w.a 2) (readSrc s c q w.b w.ty.regs) (readWord s c q w.c).toNat, 0)) s)

/-- MAD (R428). -/
def execMad (w : FForm) (s : State) : Out :=
  .next (fixedWord (.mad w) w.d w.nwb w.ty.regs (fun c q s =>
    (intMad w.ty w.sat w.hi (readSrc s c q w.a w.ty.regs) (readSrc s c q w.b w.ty.regs)
      (readSrc s c q w.c w.ty.regs), 0)) s)

/-- MAX, form F (R430). -/
def execMax (w : FForm) (s : State) : Out := .next (intWord2 (.max w) w (intMax w.ty) s)

/-- MAX, form I (R430). -/
def execMaxImm (w : IForm) (s : State) : Out := .next (intWordImm (.maxImm w) w (fun a => intMax w.ty a (immB w)) s)

/-- MIN, form F (R430). -/
def execMin (w : FForm) (s : State) : Out := .next (intWord2 (.min w) w (intMin w.ty) s)

/-- MIN, form I (R430). -/
def execMinImm (w : IForm) (s : State) : Out := .next (intWordImm (.minImm w) w (fun a => intMin w.ty a (immB w)) s)

/-- MUL, form F (R443). -/
def execMul (w : FForm) (s : State) : Out := .next (intWord2 (.mul w) w (fun a b => intMad w.ty w.sat w.hi a b 0) s)

/-- MUL, form I (R443). -/
def execMulImm (w : IForm) (s : State) : Out :=
  .next (intWordImm (.mulImm w) w (fun a => intMad w.ty w.sat w.hi a (immB w) 0) s)

/-- NOT (R447). -/
def execNot (w : FForm) (s : State) : Out := .next (intWord1 (.not w) w w.ty.regs (intNot w.ty) s)

/-- OR, form F (R448). -/
def execOr (w : FForm) (s : State) : Out := .next (intWord2 (.or w) w (fun a b => a ||| b) s)

/-- OR, form I (R448). -/
def execOrImm (w : IForm) (s : State) : Out := .next (intWordImm (.orImm w) w (fun a => a ||| (immB w)) s)

/-- POPC (R452). -/
def execPopc (w : FForm) (s : State) : Out := .next (intWord1 (.popc w) w 1 (popCount w.ty.bits) s)

/-- SEL (R468). -/
def execSel (w : FForm) (s : State) : Out :=
  .next (fixedWord (.sel w) w.d w.nwb w.ty.regs (fun c q s =>
    (readSrc s c q (if (s.thread c q).pred w.prd then w.a else w.b) w.ty.regs, 0)) s)

/-- SHA, form F (R471). -/
def execSha (w : FForm) (s : State) : Out := .next (shiftWord (.sha w) w (intSha w.ty) s)

/-- SHA, form I (R471). -/
def execShaImm (w : IForm) (s : State) : Out :=
  .next (intWordImm (.shaImm w) w (fun a => intSha w.ty a w.imm.toNat) s)

/-- SHL, form F (R471). -/
def execShl (w : FForm) (s : State) : Out := .next (shiftWord (.shl w) w (intShl w.ty) s)

/-- SHL, form I (R471). -/
def execShlImm (w : IForm) (s : State) : Out :=
  .next (intWordImm (.shlImm w) w (fun a => intShl w.ty a w.imm.toNat) s)

/-- SHR, form F (R471). -/
def execShr (w : FForm) (s : State) : Out := .next (shiftWord (.shr w) w (intShr w.ty) s)

/-- SHR, form I (R471). -/
def execShrImm (w : IForm) (s : State) : Out :=
  .next (intWordImm (.shrImm w) w (fun a => intShr w.ty a w.imm.toNat) s)

/-- SUB, form F (R481). -/
def execSub (w : FForm) (s : State) : Out := .next (intWord2 (.sub w) w (intSub w.ty w.sat) s)

/-- SUB, form I (R481). -/
def execSubImm (w : IForm) (s : State) : Out :=
  .next (intWordImm (.subImm w) w (fun a => intSub w.ty w.sat a (immB w)) s)

/-- XOR, form F (R495). -/
def execXor (w : FForm) (s : State) : Out := .next (intWord2 (.xor w) w (fun a b => a ^^^ b) s)

/-- XOR, form I (R495). -/
def execXorImm (w : IForm) (s : State) : Out := .next (intWordImm (.xorImm w) w (fun a => a ^^^ (immB w)) s)

end Sys2Proof.Machine
end

