-- ==== Sys2Proof/Machine/Pod.lean ====
section
/-! DEFINITION. The pod: member loss (R290 to R292), the package number (R22), link training, and what other members ask
of this package's memory (R312 to R314). -/

namespace Sys2Proof.Machine

/-! ## Member loss -/

/-- A result under way from a slice of the lost member will not come: a load's is poisoned, an atomic's is lost
(R291). -/
def losePending (n : Nat) (p : Pending) : Pending :=
  if !p.arrived && p.slice && paPkg p.phys == n then
    if p.kind = 3 then { p with lost := some n } else { p with poison := some (p.poison.getD 0) }
  else p

/-- What a thread has under way to the lost member (R291, R292). -/
def loseThread (n : Nat) (t : Thread) : Thread :=
  let gone := t.posted.any (fun p => paPkg p.addr == n)
  { t with
    pend := t.pend.map (losePending n)
    posted := t.posted.filter (fun p => paPkg p.addr != n)
    rfLatch := if gone then some (t.rfLatch.getD n) else t.rfLatch }

/-- A collective that is running has a package in its member set (R391). -/
def collHas (s : State) (n : Nat) (k : CopyCmd) : Bool :=
  k.kind == .coll && k.ended.isNone && k.coll.any (fun r => (memberSet s r.n).contains n)

/-- MEMBER_LOSS (R290 to R292): the declaration. Copies of its lines go; collectives with it in their set end, those of
a pre-empted block once it resumes (R392). -/
def execMemberLoss (pkg : BitVec 10) (s : State) : Out :=
  let n := pkg.toNat
  .next (if n = s.pkg ∨ !s.live.contains n then s
    else
      let colls := s.copies.filter (collHas s n)
      let s : State := { s with
        threads := s.threads.map (loseThread n)
        cores := s.cores.map (fun r => { r with
          sectors := r.sectors.filter (fun x => paPkg (32 * x.sector) != n)
          updates := r.updates.filter (fun u => paPkg (512 * u.region) != n) })
        foreignWays := s.foreignWays.filter (fun f => paPkg (32 * f.2.1) != n)
        parked := s.parked.map (fun p =>
          if collHas s n p.2 then (p.1, { p.2 with ended := some (codePeerLost, cPeerLost) }) else p)
        live := s.live.filter (· != n)
        lost := insertNat s.lost n
        ports := s.ports.map (fun p => if p.2.1 == n then (p.1, p.2.1, false) else p) }
      colls.foldl (fun s k => endCopy s k.id codePeerLost cPeerLost) s)

/-! ## Joining a pod -/

/-- An address of this package under another package number. -/
def rekey (old new a : Nat) : Nat := a - old * 2 ^ 54 + new * 2 ^ 54

/-- PODID (R22): accepted once, while no port has trained; a halted package has nobody that writes it (R320).
What the package holds is now addressed by its number. -/
def execPodid (value : Word) (s : State) : Out :=
  .next (if s.regs.podSet || s.halted || s.ports.any (fun p => p.2.2) then s
    else
      let old := s.pkg
      let new := value.toNat % 1024
      let s := s.cores.foldl (fun s r => drainCore s r.core (fun _ => true)) s
      let byte := fun (m : SMap 8) => ((SMap.keep m (fun a => paPkg a == old)).map (fun x => (rekey old new x.1, x.2)) :
        SMap 8)
      let sect := fun (l : List Nat) => (l.filter (fun k => paPkg (32 * k) == old)).map
        (fun k => rekey old new (32 * k) / 32)
      { s with
        mem := byte s.mem
        poison := sect s.poison
        borrowLines := s.borrowLines.map (fun l => { l with sector := rekey old new (32 * l.sector) / 32 })
        sliceLines := s.sliceLines.map (fun e => (e.1, rekey old new (512 * e.2) / 512))
        releases := []
        replaced := []
        cores := s.cores.map (fun r => { r with sectors := [], updates := [], codeFrom := 0 })
        foreignWays := []
        live := [new]
        regs := { s.regs with pkgNum := BitVec.ofNat 10 new, podSet := true } })

/-- LINK_TRAINING (R22, R317, R320): a port of a package that runs trains once boot is over and the number is set. With
a peer of this package's own number it does not come up, and that is reported. -/
def execLinkTraining (port : Fin 16) (peer : BitVec 10) (s : State) : Out :=
  .next (if !s.regs.podSet ∨ s.regs.bootStage ≠ 5 ∨ s.halted then s
    else if peer.toNat = s.pkg then
      ({ s with ports := s.ports.filter (fun p => p.1 != port.val) ++ [(port.val, peer.toNat, false)] } : State).notice
        (.linkEvent port.val)
    else { s with
      ports := s.ports.filter (fun p => p.1 != port.val) ++ [(port.val, peer.toNat, true)]
      live := insertNat s.live peer.toNat
      lost := s.lost.filter (· != peer.toNat) })

/-! ## Inbound requests -/

/-- The bytes a request touches, and the PERM bit that it needs: 0 read, 1 write, 2 atomic (R313). -/
def reqSpan : ReqKind → Nat × Nat
  | .read n => (n, 0)
  | .write d => (d.length, 1)
  | .atomic _ ty _ _ => (ty.bits / 8, 2)

/-- A window admits a request (R314). -/
def windowAdmits (w : BitVec 256) (src key a n perm : Nat) : Bool :=
  let v := w.toNat
  bit v 100 && (bit v 117 || bits v 127 118 == src) && bits v 116 101 == key && bits v 255 192 ≤ a &&
    a + n ≤ bits v 255 192 + bits v 191 128 && bit v (97 + perm)

/-- A request of another agent performed at its home: what it returns, and whether it is sound. -/
def serveRequest (s : State) (a : Nat) (req : ReqKind) : State × Bool × List Byte :=
  match req with
  | .read n =>
    let r := homeRead s a n
    (r.1, !r.2.2, r.2.1)
  | .write d => (homeWrite s none a d, true, [])
  | .atomic aop ty b new =>
    let n := ty.bits / 8
    let r := homeRead s a n
    if r.2.2 then (r.1, false, [])
    else (homeWrite r.1 none a (leBytes (aopValue aop.val ty (leNat r.2.1) (b.toNat % 2 ^ ty.bits) (new.toNat % 2 ^ ty.bits)) n),
      true, r.2.1)

/-- INBOUND_REQUEST (R290, R312, R314): a lost member's requests are discarded; one that no window admits is counted and
refused, and so is one that a window admits but that reaches a hole of this package, of which R197 and R314 give no
outcome (DESIGN CHOICE, log entry 92). The links of a halted package bring none (R320). -/
def execInboundRequest (src : BitVec 10) (key : BitVec 16) (addr : DWord) (req : ReqKind) (s : State) : Out :=
  let a := addr.toNat
  let n := (reqSpan req).1
  let admitted := !s.remote a && paTier a ≤ 1 && !s.hole a n &&
    (List.range 256).any (fun w => windowAdmits (SMap.get s.windows w) src.toNat key.toNat a n (reqSpan req).2)
  .next (if src.toNat = s.pkg ∨ !s.live.contains src.toNat ∨ s.halted then s
    else if admitted then
      let r := serveRequest s a req
      r.1.notice (.response src.toNat r.2.1 r.2.2)
    else { s with refusedIn := s.refusedIn + 1 }.notice (.response src.toNat false []))

end Sys2Proof.Machine
end

