-- ==== Sys2Proof/Machine/Lending.lean ====
section
/-! DEFINITION. Memory lending (R294 to R305): the cadastre of this package's LP6 extents, its borrowed extents, the
messages between lender and borrower, CXL.mem requests of a borrower, and the fabric manager. Times are package time in
microseconds. Commands and messages reach a package that is up (`State.ifUp`: R317, R320). `ide` says whether a message
comes over an IDE stream; a package lends to and borrows from no other peer (R304). -/

namespace Sys2Proof.Machine

/-! ## Messages that go out -/

def msgRecall : Nat := 2
def msgAccepted : Nat := 3
def msgRenewed : Nat := 4
def msgRelease : Nat := 5
def msgReleaseAck : Nat := 6
def msgBackInvalidate : Nat := 7
def msgSnoopDone : Nat := 8
def msgHeartbeat : Nat := 9

/-! ## The cadastre (R296) -/

def cadState (e : BitVec 128) : Nat := bits e.toNat 2 0
def cadKeep (e : BitVec 128) : Bool := e.getLsbD 16
def cadPr (e : BitVec 128) : Bool := e.getLsbD 17
def cadPw (e : BitVec 128) : Bool := e.getLsbD 18
def cadBorrower (e : BitVec 128) : Nat := bits e.toNat 47 32
def cadLease (e : BitVec 128) : Nat := bits e.toNat 63 48
def cadExpiry (e : BitVec 128) : Nat := bits e.toNat 127 64

/-- An entry with another state, lease and expiry. -/
def cadWith (e : BitVec 128) (state lease expiry : Nat) : BitVec 128 :=
  BitVec.ofNat 128 (state % 8 + bits e.toNat 47 3 * 2 ^ 3 + lease % 2 ^ 16 * 2 ^ 48 + expiry % 2 ^ 64 * 2 ^ 64)

def State.cad (s : State) (n : Nat) : BitVec 128 := SMap.get s.cadastre n

def State.setCad (s : State) (n : Nat) (e : BitVec 128) : State := { s with cadastre := SMap.set s.cadastre n e }

/-- The first byte of an extent of this package's pool (R17). -/
def State.extentBase (s : State) (n : Nat) : Nat := mkPa s.pkg 1 (n * 2 ^ 28)

/-- An extent's bytes replaced, with nothing of it in any cache and no mark. -/
def replaceExtent (s : State) (n : Nat) (f : Nat → Byte) : State :=
  let lo := s.extentBase n
  let up := lo + 2 ^ 28
  let inside := fun (a : Nat) => lo ≤ a && a < up
  { s with
    mem := SMap.keep s.mem (fun a => a < lo) ++ (SMap.ofFun (2 ^ 28) f).map (fun x => (lo + x.1, x.2)) ++
      SMap.keep s.mem (fun a => up ≤ a)
    poison := s.poison.filter (fun k => !inside (32 * k))
    cores := s.cores.map (fun r => { r with
      sectors := r.sectors.filter (fun x => !inside (32 * x.sector))
      updates := r.updates.filter (fun u => !inside (512 * u.region)) }) }

/-- A key slot is erased: what the extent held reads as what its ciphertext happens to decrypt to (R305). -/
def eraseKey (s : State) (n : Nat) : State :=
  let ctr := s.freeCtr
  let s := replaceExtent s n (fun k => Config.freeByte ctr k)
  { s with keys := SMap.set s.keys n 0, freeCtr := ctr + 1 }

/-- An entry becomes FREE, its key erased unless it is kept. -/
def freeExtent (s : State) (n : Nat) (keep : Bool) : State :=
  let s := s.setCad n (cadWith (s.cad n) 0 0 0)
  let s := { s with offers := s.offers.filter (fun o => o.1 != n) }
  if keep then s else eraseKey s n

/-! ## Lease commands (R298, R299) -/

/-- The fields of LENDCMD. -/
structure LendCmd where
  op : Nat
  term : Nat
  pw : Bool
  pr : Bool
  keep : Bool
  ext : Nat
  borrower : Nat

def parseLend (v : DWord) : LendCmd :=
  let n := v.toNat
  ⟨bits n 63 60, bits n 59 48, bit n 47, bit n 46, bit n 45, bits n 44 32, bits n 15 0⟩

def lendAnswer (s : State) (code : Nat) : State :=
  { s with regs := { s.regs with lendStat := BitVec.ofNat 64 code } }

/-- The term and the recall deadline of an extent. -/
def State.termOf (s : State) (n : Nat) : Nat := ((s.offers.find? (fun o => o.1 == n)).map (fun o => o.2.2.1)).getD 0
def State.deadlineOf (s : State) (n : Nat) : Nat := ((s.offers.find? (fun o => o.1 == n)).map (fun o => o.2.2.2)).getD 0
def State.offeredAt (s : State) (n : Nat) : Nat := ((s.offers.find? (fun o => o.1 == n)).map (fun o => o.2.1)).getD 0

/-- OFFER (R298, R299); any other OP that is not RECALL or FREE is answered BADOP. The add event carries the terms. -/
def lendOffer (c : LendCmd) (s : State) : State :=
  if c.op ≠ 1 then lendAnswer s 2
    else if !Config.lp6 then lendAnswer s 3
    else if c.term = 0 then lendAnswer s 2
    else if cadState (s.cad c.ext) ≠ 0 then lendAnswer s 1
    else
      let s := replaceExtent s c.ext (fun _ => 0)
      let s := { s with
        keys := SMap.set s.keys c.ext (Config.freshKey s.freeCtr)
        freeCtr := s.freeCtr + 1
        offers := s.offers ++ [(c.ext, s.timeUs, c.term, 0)] }
      let e := BitVec.ofNat 128 (1 + b2n c.keep * 2 ^ 16 + b2n c.pr * 2 ^ 17 + b2n c.pw * 2 ^ 18 + c.ext * 2 ^ 19 +
        c.borrower * 2 ^ 32)
      (lendAnswer (s.setCad c.ext e) 0).notice (.addEvent c.borrower c.ext c.term c.pr c.pw c.keep)

/-- LENDCMD, OFFER. -/
def execLendcmdOffer (cmd : DWord) (s : State) : Out := .next (s.ifUp (lendOffer (parseLend cmd)))

/-- RECALL: a grace of 0 counts as 1 ms (R295). -/
def lendRecall (c : LendCmd) (s : State) : State :=
  let e := s.cad c.ext
  if !Config.lp6 then lendAnswer s 3
    else if cadState e ≠ 2 then lendAnswer s 1
    else
      let deadline := s.timeUs + 1000 * Nat.max 1 (s.msOf 63 48)
      let s := s.setCad c.ext (cadWith e 3 (cadLease e) (cadExpiry e))
      let s := { s with offers := s.offers.map (fun o => if o.1 == c.ext then (o.1, o.2.1, o.2.2.1, deadline) else o) }
      (lendAnswer s 0).notice (.message (cadBorrower e) msgRecall c.ext)

/-- LENDCMD, RECALL. -/
def execLendcmdRecall (cmd : DWord) (s : State) : Out := .next (s.ifUp (lendRecall (parseLend cmd)))

def lendFree (c : LendCmd) (s : State) : State :=
  let e := s.cad c.ext
  if !Config.lp6 then lendAnswer s 3
    else if cadState e = 1 then lendAnswer (freeExtent s c.ext false) 0
    else if cadState e = 4 ∨ cadState e = 5 then lendAnswer (freeExtent s c.ext (cadKeep e)) 0
    else lendAnswer s 1

/-- LENDCMD, FREE. -/
def execLendcmdFree (cmd : DWord) (s : State) : Out := .next (s.ifUp (lendFree (parseLend cmd)))

/-! ## The lender's events (R299) -/

/-- The lease identifiers that no entry uses. -/
def freeLeases (s : State) : List Nat :=
  let used := (s.cadastre.filter (fun x => cadState x.2 != 0)).map (fun x => cadLease x.2)
  ((List.range 65535).map (· + 1)).filter (fun l => !used.contains l)

/-- The package time of a peer's latest heartbeat (R302). -/
def State.heardAt (s : State) (peer : Nat) : Nat := ((s.heard.find? (fun h => h.1 == peer)).map (·.2)).getD 0

def State.hear (s : State) (peer : Nat) : State :=
  { s with heard := s.heard.filter (fun h => h.1 != peer) ++ [(peer, s.timeUs)] }

/-- The borrower's accept of an offer. Which unused identifier the lease takes is a free choice. -/
def acceptLease (n : Nat) (s : State) : State :=
  let e := s.cad n
  let ids := freeLeases s
  let ch := s.takeNat ids.length
  let s := ch.2.setCad n (cadWith e 2 (ids.getD ch.1 1) (s.timeUs + 100000 * s.termOf n))
  (s.hear (cadBorrower e)).notice (.message (cadBorrower e) msgAccepted n)

/-- LEASE_ACCEPT: an answer counts only over an attested session and an IDE stream (R304). -/
def execLeaseAccept (extent : Fin 8192) (session : Session) (s : State) : Out :=
  .next (s.ifUp (fun s =>
    if cadState (s.cad extent.val) = 1 && session.attested && session.ide then acceptLease extent.val s else s))

/-- LEASE_REFUSAL: an answer like the accept. -/
def execLeaseRefusal (answer : LeaseAnswer) (s : State) : Out :=
  let n := answer.extent.val
  .next (s.ifUp (fun s =>
    if cadState (s.cad n) = 1 && answer.session.attested && answer.session.ide then freeExtent s n false else s))

/-- OFFER_TIMEOUT: 100 ms without answer. -/
def execOfferTimeout (extent : Fin 8192) (s : State) : Out :=
  .next (if cadState (s.cad extent.val) = 1 ∧ s.offeredAt extent.val + 100000 ≤ s.timeUs then
    freeExtent s extent.val false else s)

/-- LEASE_RENEWAL: one that arrives in the clock of expiry is late. -/
def execLeaseRenewal (extent : Fin 8192) (s : State) : Out :=
  let n := extent.val
  let e := s.cad n
  .next (s.ifUp (fun s =>
    if cadState e = 2 ∧ s.timeUs < cadExpiry e then
      (s.setCad n (cadWith e 2 (cadLease e) (s.timeUs + 100000 * s.termOf n))).notice
        (.message (cadBorrower e) msgRenewed n)
    else s))

/-- LEASE_EXPIRY, with the back-invalidate of every line that the borrower holds. -/
def execLeaseExpiry (extent : Fin 8192) (s : State) : Out :=
  let n := extent.val
  let e := s.cad n
  .next (if cadState e = 2 ∧ cadExpiry e ≤ s.timeUs then
    (s.setCad n (cadWith e 4 (cadLease e) (cadExpiry e))).notice (.message (cadBorrower e) msgBackInvalidate n)
  else s)

/-- RELEASE_MESSAGE: acknowledged to its sender in every state; only a RECALLING entry of that borrower becomes FREE. -/
def execReleaseMessage (release : ReleaseNotice) (s : State) : Out :=
  let n := release.extent.val
  let sender := release.sender
  let e := s.cad n
  .next (s.ifUp (fun s =>
    (if cadState e = 3 ∧ cadBorrower e = sender.toNat then freeExtent s n (cadKeep e) else s).notice
      (.message sender.toNat msgReleaseAck n)))

/-- RECALL_DEADLINE. -/
def execRecallDeadline (extent : Fin 8192) (s : State) : Out :=
  let n := extent.val
  let e := s.cad n
  .next (if cadState e = 3 ∧ s.deadlineOf n ≤ s.timeUs then freeExtent s n (cadKeep e) else s)

/-- A borrower's request to a leased extent is admitted (R299, R304). -/
def cxlAdmitted (s : State) (n borrower offset : Nat) (req : ReqKind) : Bool :=
  let e := s.cad n
  let k := reqSpan req
  (cadState e == 2 || cadState e == 3) && cadBorrower e == borrower && offset + k.1 ≤ 2 ^ 28 &&
    ((k.2 == 0 && cadPr e) || (k.2 == 1 && cadPw e))

/-- CXL_MEM_REQUEST: a borrower reads or writes a leased extent (R299, R304); anything else is refused. -/
def execCxlMemRequest (extent : Fin 8192) (borrower : BitVec 16) (offset : Nat) (request : CxlRequest) (s : State) : Out :=
  let n := extent.val
  let req := request.req
  .next (s.ifUp (fun s =>
    if cxlAdmitted s n borrower.toNat offset req && request.ide then
      let r := serveRequest s (s.extentBase n + offset) req
      r.1.notice (.response borrower.toNat r.2.1 r.2.2)
    else s.notice (.response borrower.toNat false [])))

/-! ## The borrower's events (R297 to R303) -/

def State.borrow (s : State) (i : Nat) : BitVec 128 := SMap.get s.borrowed i

def State.setBorrow (s : State) (i : Nat) (e : BitVec 128) : State := { s with borrowed := SMap.set s.borrowed i e }

/-- An entry with another state and lease. -/
def beWith (e : BitVec 128) (state lease : Nat) : BitVec 128 :=
  BitVec.ofNat 128 (state % 8 + bits e.toNat 47 3 * 2 ^ 3 + lease % 2 ^ 16 * 2 ^ 48 + beExpiry e * 2 ^ 64)

/-- The sectors of a borrowed extent. -/
def State.inBorrow (s : State) (i k : Nat) : Bool :=
  !s.remote (32 * k) && paTier (32 * k) == 2 && paOff (32 * k) / 2 ^ 28 == i

/-- A write of the package kernel to a borrowed-extent entry (R297). -/
def writeBorrowed (i : Nat) (value : BitVec 128) (s : State) : State :=
  let e := s.borrow i
  match beState e with
  | 0 => s.setBorrow i (BitVec.ofNat 128 (bits value.toNat 63 19 * 2 ^ 19 + bits e.toNat 18 0 + beExpiry e * 2 ^ 64))
  | 3 =>
    if beLease value = 0 ∧ beLease e ≠ 0 then
      (s.setBorrow i (beWith e 3 0)).notice (.message (beLender e) msgRelease (beExtent e))
    else s
  | 4 | 5 => if beLease value = 0 then s.setBorrow i (beWith e 0 0) else s
  | _ => s

/-- BORROWED_EXTENT_WRITE (R297). -/
def execBorrowedExtentWrite (entry : Fin 4096) (value : BitVec 128) (s : State) : Out :=
  .next (s.ifUp (writeBorrowed entry.val value))

/-- A lease begins at the borrower: the lender's extent holds zeros (R299), and nothing of the entry's earlier lease is
left in a cache (log entry 35). -/
def freshBorrow (s : State) (i : Nat) : State :=
  let e := s.borrow i
  let lo := (beLender e * 8192 + beExtent e) * 2 ^ 28
  { s with
    lenderMem := SMap.keep s.lenderMem (fun a => a < lo || lo + 2 ^ 28 ≤ a)
    borrowLines := s.borrowLines.filter (fun l => !s.inBorrow i l.sector)
    poison := s.poison.filter (fun k => !s.inBorrow i k)
    cores := s.cores.map (fun r => { r with
      sectors := r.sectors.filter (fun x => !s.inBorrow i x.sector)
      updates := r.updates.filter (fun u => !s.inBorrow i (16 * u.region)) }) }

/-- The entry whose accept or renewal, sent at `sent`, has been acknowledged: it expires MARGIN before the term ends
(R297, R299). -/
def acknowledged (s : State) (i sent term : Nat) (pr pw : Bool) : State :=
  let e := s.borrow i
  let expiry := sent + 100000 * term - 1000 * s.msOf 7 0
  s.setBorrow i (BitVec.ofNat 128 (2 + b2n pr * 2 ^ 17 + b2n pw * 2 ^ 18 + bits e.toNat 63 19 * 2 ^ 19 +
    expiry % 2 ^ 64 * 2 ^ 64))

/-- LEASE_ACKNOWLEDGEMENT: of the accept, with the offer's terms as its add event brought them, or of a renewal, for the
same TERM (R299). -/
def execLeaseAcknowledgement (entry : Fin 4096) (sent : Nat) (term : BitVec 12) (grant : Grant) (ide : Bool)
    (s : State) : Out :=
  let i := entry.val
  let e := s.borrow i
  .next (s.ifUp (fun s =>
    if s.timeUs < sent ∨ ide = false then s
    else if beState e = 0 ∧ beLease e ≠ 0 then
      let s := { freshBorrow s i with terms := SMap.set s.terms i term }
      (acknowledged s i sent term.toNat grant.pr grant.pw).hear (beLender e)
    else if beState e = 2 then acknowledged s i sent (SMap.get s.terms i).toNat (bePr e) (bePw e)
    else s))

/-- BORROWER_EXPIRY: only while ACTIVE. -/
def execBorrowerExpiry (entry : Fin 4096) (s : State) : Out :=
  let i := entry.val
  let e := s.borrow i
  .next (if beState e = 2 ∧ beExpiry e ≤ s.timeUs then s.setBorrow i (beWith e 4 (beLease e)) else s)

/-- Dirty bytes of some borrowed sectors leave every L1 and the slices for their lender (R301, R303). -/
def returnBorrowed (s : State) (p : Nat → Bool) : State :=
  borrowWriteBack (s.cores.foldl (fun s r => drainCore s r.core p) s) p

/-- RECALL_MESSAGE (R301): the entry is RECALLING from this instant, and what is dirty goes back. -/
def execRecallMessage (entry : Fin 4096) (s : State) : Out :=
  let i := entry.val
  let e := s.borrow i
  .next (s.ifUp (fun s =>
    if beState e = 2 then returnBorrowed (s.setBorrow i (beWith e 3 (beLease e))) (s.inBorrow i) else s))

/-- RELEASE_ACK: the entry whose release was sent becomes INVALID (R297). -/
def execReleaseAck (entry : Fin 4096) (s : State) : Out :=
  let i := entry.val
  let e := s.borrow i
  .next (s.ifUp (fun s => if beState e = 3 ∧ beLease e = 0 then s.setBorrow i (beWith e 0 0) else s))

/-- The answer to a snoop of some sectors: dirty data goes back, clean copies are dropped in L1, slices and foreign ways
(R301). -/
def answerSnoop (s : State) (mine : Nat → Bool) : State :=
  let s := dropBorrowed (returnBorrowed s mine) mine
  { s with
    cores := s.cores.map (fun r => { r with sectors := r.sectors.filter (fun x => !mine x.sector) })
    foreignWays := s.foreignWays.filter (fun f => !mine f.2.1) }

/-- BACK_INVALIDATE_SNOOP of one 64-byte line (R301, log entry 36). -/
def execBackInvalidateSnoop (entry : Fin 4096) (line : Nat) (s : State) : Out :=
  let i := entry.val
  let base := (mkPa s.pkg 2 (i * 2 ^ 28) + 64 * (line % 2 ^ 22)) / 32
  .next (s.ifUp (fun s =>
    (answerSnoop s (fun k => k == base || k == base + 1)).notice
      (.message (beLender (s.borrow i)) msgSnoopDone (beExtent (s.borrow i)))))

/-! ## Heartbeats (R302) -/

/-- HEARTBEAT. -/
def execHeartbeat (peer : BitVec 16) (s : State) : Out := .next (s.ifUp (fun s => s.hear peer.toNat))

/-- The packages with which this one holds a lease, as borrower or as lender. -/
def State.leasePeers (s : State) : List Nat :=
  ((s.borrowed.filter (fun x => beState x.2 == 2 || beState x.2 == 3)).map (fun x => beLender x.2) ++
    (s.cadastre.filter (fun x => cadState x.2 == 2 || cadState x.2 == 3)).map (fun x => cadBorrower x.2)).dedup

/-- The heartbeats of a millisecond. -/
def sendHeartbeats (s : State) : State :=
  s.leasePeers.foldl (fun s p => s.notice (.message p msgHeartbeat 0)) s

/-- A peer has been silent for HBLOSS, whose values below 3 ms count as 3 (R295). -/
def State.silent (s : State) (peer : Nat) : Bool := s.heardAt peer + 1000 * Nat.max 3 (s.msOf 15 8) ≤ s.timeUs

/-- The lease peers, and the fabric manager where it is another package, that have been silent too long (R302, R304). -/
def State.silentPeers (s : State) : List Nat :=
  ((s.leasePeers ++ (s.manager.toList.filter (fun m => m != s.regs.fabId.toNat))).dedup).filter s.silent

/-- Entries that lend from, or lend to, a peer become LOST. -/
def loseEntries (s : State) (peer : Nat) : State :=
  { s with
    borrowed := s.borrowed.map (fun x =>
      if beLender x.2 == peer && beState x.2 != 0 then (x.1, beWith x.2 5 (beLease x.2)) else x)
    cadastre := s.cadastre.map (fun x =>
      if cadBorrower x.2 == peer && (cadState x.2 == 2 || cadState x.2 == 3) then
        (x.1, cadWith x.2 5 (cadLease x.2) (cadExpiry x.2)) else x) }

/-- Lines of a lost lender: every copy in L1, slices and foreign ways is poison, and what has been written to them and
not acknowledged is dropped (R302). -/
def poisonLines (s : State) (hit : Nat → Bool) : State :=
  { s with
    cores := s.cores.map (fun r => { r with
      sectors := r.sectors.map (fun x =>
        if hit x.sector then { x with poison := true, valid := BitVec.allOnes 32, dirty := 0 } else x)
      updates := r.updates.filter (fun u => !hit (16 * u.region)) })
    poison := ((s.borrowLines.map (·.sector)).filter hit).foldl insertNat s.poison
    borrowLines := s.borrowLines.filter (fun l => !hit l.sector)
    foreignWays := s.foreignWays.map (fun f => if hit f.2.1 then (f.1, f.2.1, f.2.2.1, true) else f) }

/-! ## The fabric manager (R304) -/

/-- The lowest of a list. -/
def lowest (l : List Nat) : Option Nat := (sortNat l).head?

/-- The manager and its standby: the lowest and the next of the live attested packages. A manager's silence counts from
its election. -/
def elect (s : State) (ids : List Nat) : State :=
  let m := lowest ids
  let t := { s with attested := ids, manager := m, standby := lowest (ids.filter (fun n => some n != m)) }
  match m with
  | some n => if s.manager = m then t else t.hear n
  | none => t

/-- FABRIC_MANAGER_ELECTION: among the live attested packages. -/
def execFabricManagerElection (attested : List (BitVec 16)) (s : State) : Out :=
  .next (s.ifUp (fun s => elect s (attested.map (·.toNat))))

/-- HEARTBEAT_LOSS (R302): the entries of a silent peer are lost, and the lines of those that it lends; where it was the
fabric manager or the standby, its place is filled from those that remain (R304). -/
def execHeartbeatLoss (peer : BitVec 16) (s : State) : Out :=
  let n := peer.toNat
  .next (if !s.silent n then s
    else
      let mine := (s.borrowed.filter (fun x => beLender x.2 == n && beState x.2 != 0)).map (·.1)
      let s := poisonLines (loseEntries s n) (fun k => mine.any (fun i => s.inBorrow i k))
      if s.manager = some n ∨ s.standby = some n then elect s (s.attested.filter (· != n)) else s)

end Sys2Proof.Machine
end

