-- ==== Sys2Proof/Machine/Moves.lean ====
section
/-! DEFINITION. Class 1: moves, predicates and system registers (R81, R82, R394, R437 to R440, R446, R451, R476,
R497), and form P, the pairs (R337, R338, R409, R427). -/

namespace Sys2Proof.Machine

/-! ## System registers -/

/-- PKGINFO (R21). -/
def State.pkgInfo (s : State) : Word :=
  BitVec.ofNat 32 (s.regs.pkgNum.toNat * 2 ^ 22 + b2n Config.lp6 * 2 ^ 21 + b2n s.regs.upEn * 2 ^ 20 +
    s.regs.upPort.toNat * 2 ^ 18)

/-- RECTPOS (R55). -/
def Block.rectPos (b : Block) : Word := BitVec.ofNat 32 (b.w * 2 ^ 24 + b.h * 2 ^ 16 + b.bx * 2 ^ 8 + b.bY)

/-- ROLEINFO (R81). -/
def Block.roleInfo (b : Block) (r : Role) : Word :=
  let row := b.roles.find? (fun x => x.role == r)
  BitVec.ofNat 32 (roleCode r * 2 ^ 16 + (row.map (·.adiv8)).getD 48 * 2 ^ 9 + b.limitOf r)

/-- The value of a system register in a thread (R81, R89, R476). -/
def readSys (s : State) (c q n : Nat) : Nat :=
  let t := s.thread c q
  let b := s.block c
  let level := fun (m : Nat) (f : LoopLevel → Nat) => (t.loops[m]?.map f).getD 0
  if n = 0x000 then t.tst.toNat
  else if n = 0x001 then t.tcause.toNat
  else if n = 0x002 then t.taddr.toNat
  else if n = 0x003 then t.tpc.toNat
  else if n = 0x004 then (b.tvecAt s.clock q).toNat
  else if 0x010 ≤ n ∧ n ≤ 0x013 then level (n - 0x010) (fun l => l.cnt.toNat)
  else if 0x014 ≤ n ∧ n ≤ 0x017 then level (n - 0x014) (fun l => l.base.toNat)
  else if 0x018 ≤ n ∧ n ≤ 0x01B then level (n - 0x018) (fun l => l.last.toNat)
  else if 0x01C ≤ n ∧ n ≤ 0x01F then level (n - 0x01C) (fun l => l.lrot.toNat)
  else if n = 0x040 then (corePos c).toNat
  else if n = 0x041 then s.pkgInfo.toNat
  else if n = 0x042 then b.rectPos.toNat
  else if n = 0x043 then b.saveBase.toNat
  else (b.roleInfo t.role).toNat

/-- A write of a system register by its own rules (R497). -/
def writeSys (s : State) (c q n v : Nat) : State :=
  let w : Word := BitVec.ofNat 32 v
  if n = 0x000 then s.modThread c q (fun t => { t with tst := (t.tst &&& ~~~0x1F#32) ||| (w &&& 0x1F#32) })
  else if n = 0x001 then s.modThread c q (fun t => { t with tcause := w &&& 0x00FF0FFF#32 })
  else if n = 0x002 then s.modThread c q (fun t => { t with taddr := BitVec.ofNat 64 v })
  else if n = 0x003 then s.modThread c q (fun t => { t with tpc := BitVec.ofNat 64 v })
  else if n = 0x004 then
    s.modBlock c (fun b => { b with tvecPend := b.tvecPend ++ [⟨BitVec.ofNat 64 v, s.clock, quarterOf q, q⟩] })
  else s.modThread c q (fun t =>
    { t with loops := t.loops.modify (n - 0x010) (fun l => { l with cnt := w }) })

/-! ## Pairs -/

/-- The value and flags of one operation of a pair (R337). -/
def pairValue (o : PairOp) (a b d : Word) : Nat × Flags :=
  let f := fun (x : Word) => fmtF32.decode x.toNat
  match o with
  | .fadd => fAdd fmtF32 .rne (f a) (f b)
  | .fmul => fMul fmtF32 .rne (f a) (f b)
  | .fmac => fFma fmtF32 .rne (f a) (f b) (f d)
  | .fmin => (fMin fmtF32 a.toNat b.toNat, 0)
  | .fmax => (fMax fmtF32 a.toNat b.toNat, 0)
  | .add => ((a + b).toNat, 0)
  | .sub => ((a - b).toNat, 0)
  | .mul => ((a * b).toNat, 0)
  | .and => ((a &&& b).toNat, 0)
  | .or => ((a ||| b).toNat, 0)
  | .xor => ((a ^^^ b).toNat, 0)
  | .shl => (if b.toNat < 32 then (a <<< b.toNat).toNat else 0, 0)
  | .shr => (if b.toNat < 32 then (a >>> b.toNat).toNat else 0, 0)
  | .min => ((if b.slt a then b else a).toNat, 0)
  | .max => ((if a.slt b then b else a).toNat, 0)
  | .mac => ((d + a * b).toNat, 0)
  | .mov => (a.toNat, 0)

/-- What one half of a pair will write, if its guard is true. -/
def pairHalf (s : State) (c q : Nat) (h : PHalf) : Option (Nat × Flags) :=
  if (s.thread c q).pred h.g.toNat then
    some (pairValue h.op (readWord s c q h.a) (readWord s c q h.b) (readWord s c q h.d))
  else none

def pairWrite (s : State) (c q : Nat) (h : PHalf) (r : Option (Nat × Flags)) : State :=
  match r with
  | some v => fixedResult s c q h.d h.nwb 1 v.1 v.2
  | none => fixedSkip s c q h.d h.nwb

/-! ## The instructions -/

/-- ELECT (R394). -/
def execElect (w : FForm) (s : State) : Out :=
  let m := actingSlots (.elect w) s
  .next (issueWord (.elect w)
    (fun c q s =>
      let e := m.headD q
      .done (writePred (fixedResult s c q w.d w.nwb 1 e 0) c q w.prd (q == e)))
    (fun c q s => .done (fixedSkip s c q w.d w.nwb)) s)

/-- MOV (R437). -/
def execMov (w : FForm) (s : State) : Out :=
  .next (fixedWord (.mov w) w.d w.nwb w.ty.regs (fun c q s => (readSrc s c q w.a w.ty.regs, 0)) s)

/-- MOVI (R438). -/
def execMovi (w : IForm) (s : State) : Out :=
  .next (fixedWord (.movi w) w.d w.nwb 1 (fun _ _ _ => (w.imm.toNat, 0)) s)

/-- The name that MOVX and MOVXW compute (R440), if it is below the limit L (R64). -/
def computedName (s : State) (c q : Nat) (base : Opnd) (idx : Word) : Except Nat Nat :=
  let n : Int := base.code.toNat + idx.toInt
  if n < 0 ∨ ((s.block c).limitOf (s.thread c q).role : Int) ≤ n then .error (n % 512).toNat else .ok n.toNat

/-- MOVX (R440). The register that it computes is read like any other: a struck one raises POISON (R286). -/
def execMovx (w : FForm) (s : State) : Out :=
  .next (issueWord (.movx w)
    (fun c q s => match computedName s c q w.a (readWord s c q w.b) with
      | .error x => .trap s (Trap.plain cRegRange x)
      | .ok n =>
        let t := s.thread c q
        if t.regPoison.contains (rotateName t.loops n) then .trap s ⟨cPoison, 2, 6, none, 0, 0⟩
        else .done (fixedResult s c q w.d w.nwb 1 (t.readV n).toNat 0))
    (fun c q s => .done (fixedSkip s c q w.d w.nwb)) s)

/-- MOVXW (R440). Under a false guard the latch takes the register that the base names. -/
def execMovxw (w : FForm) (s : State) : Out :=
  .next (issueWord (.movxw w)
    (fun c q s => match computedName s c q w.d (readWord s c q w.b) with
      | .error x => .trap s (Trap.plain cRegRange x)
      | .ok n =>
        let v := readWord s c q w.a
        .done (s.modThread c q (fun t =>
          let p := rotateName t.loops n
          { t with regs := SMap.set t.regs p v, regPoison := t.regPoison.filter (· != p) }.pushLatch ⟨v, some p, true⟩)))
    (fun c q s => .done (fixedSkip s c q w.d false)) s)

/-- NOP (R446). -/
def execNop (w : FForm) (s : State) : Out :=
  .next (issueWord (.nop w)
    (fun c q s => .done (fixedSkip s c q .zero false)) (fun c q s => .done (fixedSkip s c q .zero false)) s)

/-- PLOP (R451): the truth table lies in TY2. -/
def execPlop (w : FForm) (s : State) : Out :=
  let p := fun (n : Nat) => (w.sub.extractLsb' n 4).toNat
  .next (predWord (.plop w) (p 8) (fun c q s =>
    let t := s.thread c q
    w.ty2.code.getLsbD (2 * b2n (t.pred (p 4)) + b2n (t.pred (p 0)))) s)

/-- SRD (R476). -/
def execSrd (w : FForm) (s : State) : Out :=
  .next (tagWord (.srd w) w.ctl.alloc w.d (sysRegRegs w.subN) (fun c q s => (readSys s c q w.subN, 0)) s)

/-- SWR (R497). -/
def execSwr (w : FForm) (s : State) : Out :=
  .next (issueWord (.swr w) (fun c q s =>
    .done (writeSys s c q w.subN (readSrc s c q w.a (sysRegRegs w.subN)))) (fun _ _ s => .done s) s)

/-- A pair (R338): both halves read before either writes; each shifts the latches. -/
def execPair (k : Ctl) (x y : PHalf) (s : State) : Out :=
  .next (issueWord (.pair k x y) (fun c q s =>
    let rx := pairHalf s c q x
    let ry := pairHalf s c q y
    .done (pairWrite (pairWrite s c q x rx) c q y ry)) (fun _ _ s => .done s) s)

end Sys2Proof.Machine
end

