-- ==== Sys2Proof/Machine/Platform.lean ====
section
/-! DEFINITION. Boot, measurement and resets (R315 to R318, R327), alarms (R319, R320), the management registers and
MGSEM (R321, R322), clock and health (R323 to R325), and the accesses of host cores and I/O devices. -/

namespace Sys2Proof.Machine

/-! ## SHA-256 (FIPS 180-4), which R316 names

Its constants are fractional parts of roots of primes, and are computed as such. -/

/-- The largest r with r ^ e ≤ n among those of `fuel` bits, grown from the top bit. -/
def floorRoot (e n : Nat) : Nat → Nat → Nat
  | 0, r => r
  | fuel + 1, r => floorRoot e n fuel (if (r + 2 ^ fuel) ^ e ≤ n then r + 2 ^ fuel else r)

/-- The first 32 bits of the fraction of the e-th root of a number below 2 ^ 9. -/
def rootFraction (e p : Nat) : Word := BitVec.ofNat 32 (floorRoot e (p * 2 ^ (32 * e)) 37 0)

/-- The primes below 312, of which there are 64. -/
def primes64 : List Nat :=
  (List.range 312).filter (fun n => 2 ≤ n && (List.range 18).all (fun d => d < 2 || n ≤ d || n % d != 0))

/-- A word turned right by several distances, the results combined by exclusive or. -/
def turned (x : Word) (by' : List Nat) : Word := by'.foldl (fun y n => y ^^^ x.rotateRight n) 0

/-- The message schedule with its newest word first: `fuel` more words. -/
def schedule : Nat → List Word → List Word
  | 0, l => l
  | fuel + 1, l =>
    let ago := fun (n : Nat) => l.getD (n - 1) 0
    let near := turned (ago 2) [17, 19] ^^^ (ago 2 >>> 10)
    let far := turned (ago 15) [7, 18] ^^^ (ago 15 >>> 3)
    schedule fuel ((near + ago 7 + far + ago 16) :: l)

/-- One round on the eight working words, with the sum of its constant and its word of the schedule. -/
def mixRound (v : List Word) (kw : Word) : List Word :=
  match v with
  | [a, b, c, d, e, f, g, h] =>
    let choose := g ^^^ (e &&& (f ^^^ g))
    let most := (a &&& b) ||| (c &&& (a ||| b))
    let x := kw + h + choose + turned e [6, 11, 25]
    [x + most + turned a [2, 13, 22], a, b, c, x + d, e, f, g]
  | _ => v

/-- One block of 16 words taken into the chaining words. -/
def compress (h block : List Word) : List Word :=
  let kws := List.zipWith (· + ·) (primes64.map (rootFraction 3)) (schedule 48 block.reverse).reverse
  List.zipWith (· + ·) h (kws.foldl mixRound h)

/-- Four bytes, the first the most significant. -/
def beWord (bs : List Byte) : Word := BitVec.ofNat 32 (leNat bs.reverse)
def beBytes (w : Word) : List Byte := (leBytes w.toNat 4).reverse

/-- SHA-256 of 64 bytes: their block, and the block of the padding with the length in bits. -/
def sha256of64 (m : List Byte) : List Byte :=
  let start := (primes64.take 8).map (rootFraction 2)
  let data := (List.range 16).map (fun i => beWord ((m.drop (4 * i)).take 4))
  let pad : List Word := (0x80000000 : Word) :: List.replicate 14 0 ++ [512]
  (compress (compress start data) pad).flatMap beBytes

/-- The extension of a measurement register (R316); byte 0 of a digest stands at the lowest address. -/
def extendDigest (m h : BitVec 256) : BitVec 256 :=
  BitVec.ofNat 256 (leNat (sha256of64 (leBytes m.toNat 32 ++ leBytes h.toNat 32)))

def extendMreg (s : State) (n : Nat) (h : BitVec 256) : State :=
  { s with mreg := SMap.set s.mreg n (extendDigest (SMap.get s.mreg n) h) }

/-! ## Boot (R315, R317) -/

/-- The verifying key is one of the four that are fused, in a slot that is not revoked. -/
def keyAccepted (key : BitVec 256) : Bool :=
  (List.range 4).any (fun i => Config.keyDigest i == key && !Config.revoked.getLsbD i)

/-- The verification of a stage's image: the failure code, or none (R317). The signature is looked at first (log entry
39). -/
def verifyImage (stage : Nat) (im : BootImage) : Option Nat :=
  if !keyAccepted im.signature.key || !im.signature.sigOk then some (stage + 0x10)
  else if im.version < Config.minVersion then some (stage + 0x20) else none

/-- The package stops before a stage and reports why. -/
def stopBoot (s : State) (stage code : Nat) : State :=
  ({ s with regs := { s.regs with bootStage := stage - 1, bootFail := some code } } : State).notice (.bootFailure code)

/-- The boot-configuration record of stage 2 takes effect (R20, R21, R294). -/
def loadRecord (s : State) (digest : BitVec 256) : State :=
  { s with regs := { s.regs with
      upEn := Config.recordUpEn digest, upPort := Config.recordUpPort digest, fabId := Config.recordFabId digest } }

/-- BOOT_STAGE: the next image is verified; it is measured before it runs, or boot stops with its code. -/
def execBootStage (digest : BitVec 256) (signature : ImageSignature) (version : Nat) (s : State) : Out :=
  let stage := s.regs.bootStage + 1
  .next (if 5 < stage ∨ s.regs.bootFail.isSome then s
    else match verifyImage stage ⟨digest, signature, version⟩ with
      | some code => stopBoot s stage code
      | none =>
        let s := extendMreg s (stage - 1) digest
        let s := if stage = 2 then loadRecord s digest else s
        { s with regs := { s.regs with bootStage := stage } })

/-- MREG_EXTEND by the package kernel (R316): MREG8 to MREG15. -/
def execMregExtend (reg : Fin 16) (digest : BitVec 256) (s : State) : Out :=
  .next (s.ifUp (fun s => if 8 ≤ reg.val then extendMreg s reg.val digest else s))

/-- The CXL ports have trained: the hub firmware of stage 3 brings them up, and a halt stops them (R315, R317, R320). -/
def State.cxlUp (s : State) : Bool := decide (3 ≤ s.regs.bootStage) && !s.halted

/-- The path of an SPDM request is there (R20, R317, R318, R320). -/
def State.reaches (s : State) : SpdmPath → Bool
  | .cxl _ => s.cxlUp
  | .mctpPcie => s.regs.upEn && s.cxlUp
  | .mctpI3c => true
  | .pod p => s.up && p.toNat != s.pkg && s.live.contains p.toNat

/-- SPDM_REQUEST (R318): block n + 1 carries MREGn, signed. -/
def execSpdmRequest (requester : SpdmPath) (block : Nat) (s : State) : Out :=
  .next (if s.reaches requester ∧ 1 ≤ block ∧ block ≤ 16 then
    let m := SMap.get s.mreg (block - 1)
    s.notice (.spdm requester block m (Config.signature block m))
  else s)

/-! ## Alarms (R319, R320) -/

def alarmBit : AlarmSource → Nat
  | .volt => 0
  | .clk => 1
  | .lid => 2
  | .debug => 3

/-- A halt stops every core and every link (R320). -/
def haltPackage (s : State) : State := { s with halted := true, ports := s.ports.map (fun p => (p.1, p.2.1, false)) }

/-- A read of LP6 that has been checked and whose data has not come: it cannot be decrypted any more (R320). -/
def strikeLp6 (s : State) (p : Pending) : Pending :=
  if !p.arrived && p.slice && !s.remote p.phys && paTier p.phys == 1 then { p with poison := some (p.poison.getD 0) } else p

/-- Every key slot erased: the cadastre's leases are LOST, and what the extents held cannot be decrypted and is
poisoned, in memory and on its way (R320). -/
def eraseKeys (s : State) : State :=
  let held := s.keys.map (·.1)
  let s := held.foldl eraseKey s
  { s with
    threads := s.threads.map (fun t => { t with pend := t.pend.map (strikeLp6 s) })
    cadastre := s.cadastre.map (fun x =>
      if cadState x.2 != 0 then (x.1, cadWith x.2 5 (cadLease x.2) (cadExpiry x.2)) else x)
    poison := held.foldl (fun l n => (List.range (2 ^ 23)).foldl (fun l k => insertNat l (s.extentBase n / 32 + k)) l) s.poison }

/-- TAMPER_ALARM. -/
def execTamperAlarm (source : AlarmSource) (s : State) : Out :=
  let b := alarmBit source
  let act := s.regs.alarmCfg.toNat % 4
  let s := { s with regs := { s.regs with alarmStat := s.regs.alarmStat ||| (1#32 <<< b) } }.notice (.alarmEvent (2 ^ b))
  .next (if act = 0 then s else if act = 1 then eraseKeys s else haltPackage (eraseKeys s))

/-! ## MGSEM (R322) -/

/-- OWNER of a requester; the security core is none. -/
def ownerCode : Requester → Nat
  | .mctpPcie => 1
  | .mctpI3c => 2
  | .kernel => 3
  | .security => 4

/-- The requester is there to ask: MCTP over PCIe where a CXL port is upstream and has trained (R19, R20, R317), the
package kernel only of a package that is up (R317, R320). -/
def State.asks (s : State) : Requester → Bool
  | .mctpPcie => s.reaches .mctpPcie
  | .kernel => s.up
  | .mctpI3c | .security => true

/-- The requester holds MGSEM, and the timer has not run out. -/
def State.holds (s : State) (r : Requester) : Bool :=
  s.asks r && s.regs.mgOwner == ownerCode r && s.timeUs < s.regs.mgDeadlineUs

/-- The hold timer starts. -/
def startHold (s : State) : State :=
  { s with regs := { s.regs with mgDeadlineUs := s.timeUs + 1000 * Nat.max 1 s.regs.mgHold } }

/-- The response of a management port. -/
def mctpAnswer (s : State) (req : Requester) (ok : Bool) (value : BitVec 256 := 0) : State :=
  match req with
  | .mctpPcie | .mctpI3c => s.notice (.mctp req ok value)
  | .kernel | .security => s

/-- What a requester reads; the package kernel reads by accesses of its own (R197). -/
def readAnswer (s : State) (req : Requester) (value : BitVec 256) : State :=
  if req = .kernel then s else s.notice (.mctp req true value)

/-- The requester that has held MGSEM least recently; among several that never have, a free choice. -/
def mgWinner (s : State) (rs : List Requester) : Option Requester × State :=
  let fresh := rs.filter (fun r => !s.regs.mgLast.contains r)
  if fresh.isEmpty then (s.regs.mgLast.find? (fun r => rs.contains r), s)
  else
    let ch := s.takeNat fresh.length
    (fresh[ch.1]?, ch.2)

/-- MGSEM goes to a requester. -/
def grantSem (s : State) (r : Requester) : State :=
  startHold { s with regs := { s.regs with mgOwner := ownerCode r, mgLast := s.regs.mgLast.filter (· != r) ++ [r] } }

/-- MGSEM_ACQ: the requests of one clock, each answered. -/
def execMgsemAcq (requests : List Requester) (s : State) : Out :=
  let rs := requests.filter (fun r => s.asks r && r != .security)
  let w := if s.regs.mgOwner = 0 then mgWinner s rs else (none, s)
  let t := match w.1 with
    | some r => grantSem w.2 r
    | none => w.2
  .next (rs.foldl (fun s r => mctpAnswer s r (w.1 == some r)) t)

/-- A request for MGSEM: those of one clock are decided together. -/
def requestSem (s : State) (r : Requester) : State :=
  let isAcq := fun (i : Instr) => match i with
    | .mgsemAcq _ => true
    | _ => false
  let join := fun (i : Instr) => match i with
    | .mgsemAcq l => Instr.mgsemAcq (l ++ [r])
    | i => i
  if s.agenda.any isAcq then s.setAgenda (s.agenda.map join) else s.post (.mgsemAcq [r])

/-- A write of a requester that the holder of MGSEM alone may make: accepted, or refused with an error completion
(R321). -/
def holderWrite (s : State) (r : Requester) (f : State → State) : State :=
  if s.holds r then
    let t := f s
    mctpAnswer (if t.regs.mgOwner = 0 then t else startHold t) r true
  else if s.asks r then mctpAnswer s r false else s

/-- MGSEM_REL. -/
def execMgsemRel (requester : Requester) (s : State) : Out :=
  .next (holderWrite s requester (fun s => { s with regs := { s.regs with mgOwner := 0 } }))

/-- MGSEM_TIMEOUT. -/
def execMgsemTimeout (s : State) : Out :=
  .next (if s.regs.mgOwner ≠ 0 ∧ s.regs.mgDeadlineUs ≤ s.timeUs then { s with regs := { s.regs with mgOwner := 0 } }
    else s)

/-! ## Resets (R327) -/

/-- A key slot that is kept: its lease says so, or its lease has ended and left it. -/
def keptSlot (s : State) (n : Nat) : Bool :=
  SMap.get s.keys n != 0 && (cadKeep (s.cad n) || cadState (s.cad n) == 0)

/-- What no reset takes back: what has been sent out, and the count of free choices. -/
def carryOver (s t : State) : State := { t with notices := s.notices, freeCtr := s.freeCtr, keys := SMap.keep s.keys (keptSlot s) }

/-- A package reset: KEEP extents keep their contents, MREG8 to MREG15 their values. -/
def packageReset (s : State) : State :=
  let s := s.cores.foldl (fun s r => drainCore s r.core (fun _ => true)) s
  let kept := fun (a : Nat) => paPkg a == s.pkg && paTier a == 1 && keptSlot s (paOff a / 2 ^ 28)
  { carryOver s State.reset with
    mreg := SMap.keep s.mreg (fun n => 8 ≤ n)
    mem := (SMap.keep s.mem kept).map (fun x => (rekey s.pkg 0 x.1, x.2))
    poison := (s.poison.filter (fun k => kept (32 * k))).map (fun k => rekey s.pkg 0 (32 * k) / 32) }

/-- RESETCMD. Another value is ignored; that the holder's write of it is accepted all the same is the model's (DESIGN
CHOICE, log entry 79). -/
def execResetcmd (requester : Requester) (value : Word) (s : State) : Out :=
  .next (holderWrite s requester (fun s => if value = 0x5EA1#32 then packageReset s else s))

/-- POWER_ON_RESET: everything but the fuses and the kept keys. -/
def execPowerOnReset (s : State) : Out := .next (carryOver s State.reset)

/-- HOST_CORE_RESET: the host cores restart from stage 5, whose image is verified and extended into MREG4; running
blocks continue. -/
def execHostCoreReset (image : BootImage) (s : State) : Out :=
  .next (s.ifUp (fun s => match verifyImage 5 image with
    | some code => stopBoot s 5 code
    | none => extendMreg s 4 image.digest))

/-! ## Clock, heat and health (R323 to R325) -/

/-- The module input power that PWRCAP allows, in watts (R325). -/
def Regs.capWatts (r : Regs) : Nat := Nat.max 2000 (Nat.min 5000 (bits r.pwrCap.toNat 15 0))

/-- The highest clock of the grid from 800 to 2,000 MHz at which the module stays at or below a power; `watts` is its
input power at each clock of the grid, lowest first. -/
def powerClock (cap : Nat) (watts : List Nat) : Nat :=
  800 + 25 * (((watts.take 49).zipIdx.filter (fun x => x.1 ≤ cap)).map (·.2)).foldl Nat.max 0

/-- CLOCK_UPDATE: the lowest of the clock that PWRCAP allows, what a junction above 100 °C leaves (how much it takes is
a free choice), and 0.8 GHz above 110 °C. CLKSTAT shows the limits that apply. -/
def updateClock (watts : List Nat) (junction : Nat) (s : State) : State :=
  let p := powerClock s.regs.capWatts watts
  let th := if 100 < junction then 800 + 25 * (Config.freeNat s.freeCtr % 48) else 2000
  let tr := if 110 < junction then 800 else 2000
  let f := Nat.min p (Nat.min th tr)
  let lim := b2n (f < 2000 && p == f) + 2 * b2n (100 < junction && th == f) + 4 * b2n (110 < junction && tr == f)
  { s with freeCtr := s.freeCtr + 1, regs := { s.regs with clkMHz := f, clkLimits := BitVec.ofNat 3 lim } }

/-- CLOCK_UPDATE (R324), by the hub firmware, which runs from stage 3 on (R317): a junction at 115 °C halts the
package. -/
def execClockUpdate (watts : List Nat) (junction : Nat) (s : State) : Out :=
  .next (if s.regs.bootStage < 3 then s
    else if 115 ≤ junction then haltPackage (updateClock watts junction s) else updateClock watts junction s)

/-- THERMAL_TRIP at 115 °C: a halt that leaves the keys. -/
def execThermalTrip (s : State) : Out := .next (haltPackage s)

/-- The wear of a stack's HBM (R323): its live channels, its marked banks, its corrected errors since boot. -/
def hbmFigure (s : State) (stack : Nat) : Nat :=
  s.numChannels stack + (s.markedBanks.filter (fun b => b / 1024 == stack)).length * 2 ^ 32 +
    (SMap.get s.hbmErrors stack).toNat * 2 ^ 64

/-- HEALTH_UPDATE (R323), once an hour: what the monitors, the LP6 controllers (corrected errors, spare rows) and the 64
lanes and 4 CXL ports report, and the wear of each stack. -/
def execHealthUpdate (figures : HealthFigures) (s : State) : Out :=
  .next { s with
    eol := SMap.ofFun 8 (fun n => figures.eol.getD n 0)
    hbmWear := SMap.ofFun 16 (fun n => BitVec.ofNat 128 (hbmFigure s n))
    lp6Wear := SMap.ofFun 8 (fun n => figures.lp6.getD n 0)
    linkMargin := SMap.ofFun 68 (fun n => figures.margin.getD n 0) }

/-! ## Settings and figures

What firmware and the management ports reach but the manual gives no tier-3 offset (R175, R187, R288, R323) stands at
offsets of the model's own from 2^32 on, above tier 3 (DESIGN CHOICE, log entry 64). -/

def settingBase : Nat := 2 ^ 32

/-- The settings of R288, by kind: the mark in [15:0], the leak period in µs above. -/
def settingKind (i : Nat) : Option CounterKind :=
  match i with
  | 0 => some .bank
  | 8 => some .lane
  | 16 => some .cohort
  | 24 => some .laneGroup
  | _ => none

/-- A setting or figure as a management port reads it. -/
def settingValue (s : State) (i : Nat) : Option Nat :=
  match settingKind i with
  | some k => some ((s.leakOf k).2 % 2 ^ 16 + (s.leakOf k).1 * 2 ^ 16)
  | none =>
    if 0x100 ≤ i ∧ i < 0x200 ∧ i % 16 = 0 then some (SMap.get s.hbmWear ((i - 0x100) / 16)).toNat
    else if 0x200 ≤ i ∧ i < 0x240 ∧ i % 8 = 0 then some (SMap.get s.lp6Wear ((i - 0x200) / 8)).toNat
    else if 0x300 ≤ i ∧ i < 0x300 + 2 * 68 ∧ i % 2 = 0 then some (SMap.get s.linkMargin ((i - 0x300) / 2)).toNat
    else none

/-- A setting of R288 written. -/
def setLeak (s : State) (k : CounterKind) (v : Nat) : State :=
  { s with leakSet := s.leakSet.map (fun r => if r.1 = k then (k, v / 2 ^ 16, v % 2 ^ 16) else r) }

/-- The settings of the package's own firmware: FWAYS (R187), whose change empties the foreign ways, and the order to
fence lane groups [19:10] and units [29:20] of core [8:0] or, with bit 31, to lift their fences (R175). -/
def firmwareWrite (s : State) (i v : Nat) : Option State :=
  if i = 0x20 then some { s with regs := { s.regs with fways := Nat.min 8 (v % 16) }, foreignWays := [] }
  else if i = 0x28 then
    some (orderFences s (bits v 8 0) (bit v 31) (BitVec.ofNat 10 (bits v 19 10)) (BitVec.ofNat 10 (bits v 29 20)))
  else none

/-- What a management port reads (R294, R321): a register or entry below 0x1600000, but none of the OUTKEY table, a
setting or a figure. The security core reads the others too (R294, R375). A write-only register reads as zero (R7).
From an offset inside an entry on, the largest aligned part that begins there is read (R197; its size is log entry 41).
-/
def portRead (s : State) (req : Requester) (off : Nat) : Option Nat :=
  if settingBase ≤ off then settingValue s (off - settingBase)
  else match t3Cell off with
    | some r =>
      if t3Secret off && req != .security then none
      else
        let o := off - r.1
        some (t3Value s r.1 / 2 ^ (8 * o) % 2 ^ (8 * Nat.gcd o r.2))
    | none => none

/-! ## Register writes (R8, R321) -/

/-- The waiting records of the fault queue enter as far as there is room (R275). -/
def refillFaults (s : State) : State := s.fqWait.foldl fqPush { s with fqWait := [] }

/-- A write of STATE in the slot table moves a core between FREE and DEFECTIVE only (R260). -/
def writeSlotState (s : State) (c v : Nat) : State :=
  let e := s.slotEntry c
  let st := bits v 34 32
  if (e.state = 0 ∧ st = 4) ∨ (e.state = 4 ∧ st = 0) then s.setSlot { e with state := st } else s

/-- A write to a register or table that only the package kernel writes; none where the offset is read-only. -/
def kernelWrite (s : State) (off v : Nat) : Option State :=
  let r := s.regs
  if settingBase ≤ off then firmwareWrite s (off - settingBase) v
  else if off = 0x1100090 then some { s with regs := { r with dispCfg := BitVec.ofNat 32 (v / 2 ^ 8 * 2 ^ 8) } }
  else if off = 0x11000A0 then some { s with regs := { r with fqBase := BitVec.ofNat 64 v } }
  else if off = 0x11000AC then
    let s := refillFaults { s with regs := { r with fqHead := BitVec.ofNat 32 v } }
    some (if s.regs.fqTail = s.regs.fqHead then s else s.notice .hostInterrupt)
  else if off = 0x1300000 then some { s with regs := { r with lendCfg := BitVec.ofNat 64 v } }
  else if off = 0x1300020 then some { s with regs := { r with linkArb := BitVec.ofNat 32 (v % 2 ^ 8) } }
  else if off = 0x1600000 then
    some { s with regs := { r with bndBase := BitVec.ofNat 64 (v / 2 ^ 16 * 2 ^ 16 + v % 2) } }
  else if 0x1200000 ≤ off ∧ off < 0x1201800 then some (writeSlotState s ((off - 0x1200000) / 16) v)
  else if 0x1430000 ≤ off ∧ off < 0x1432000 then
    some { s with windows := SMap.set s.windows ((off - 0x1430000) / 32) (BitVec.ofNat 256 (v / 2 ^ 97 * 2 ^ 97)) }
  else if 0x1440000 ≤ off ∧ off < 0x1460000 then
    some { s with outkey := SMap.set s.outkey ((off - 0x1440000) / 2) (BitVec.ofNat 16 v) }
  else if 0x1602000 ≤ off ∧ off < 0x1604000 then
    some { s with bndown := SMap.set s.bndown ((off - 0x1602000) / 2) (BitVec.ofNat 16 v) }
  else none

/-- A write to a configuration register by the holder of MGSEM. An accepted reset takes place with its write (R327). -/
def configWrite (s : State) (off v : Nat) : Option State :=
  let r := s.regs
  if settingBase ≤ off then (settingKind (off - settingBase)).map (fun k => setLeak s k v)
  else if off = 0x1000000 then
    some { s with regs := { r with throt := BitVec.ofNat 32 (bits v 31 24 * 2 ^ 24 + bits v 19 0) } }
  else if off = 0x1500000 then
    let s := { s with regs := { r with mgHold := bits v 15 0 } }
    some (if bit v 29 then { s with regs := { s.regs with mgOwner := 0 } } else s)
  else if off = 0x1500004 then
    some (if r.alarmCfg.getLsbD 31 then s
      else { s with regs := { r with alarmCfg := BitVec.ofNat 32 (bits v 31 31 * 2 ^ 31 + bits v 1 0) } })
  else if off = 0x1500008 then some { s with regs := { r with alarmStat := r.alarmStat &&& ~~~(BitVec.ofNat 32 v) } }
  else if off = 0x150000C then some { s with regs := { r with pwrCap := BitVec.ofNat 32 (bits v 15 0) } }
  else if off = 0x1500014 then some (if v % 2 ^ 32 = 0x5EA1 then packageReset s else s)
  else none

/-- A write of the security core (R22, R294, R375): PODID, the lending and pod structures, those of the bound table. -/
def securityWrite (s : State) (off size v : Nat) : Option State :=
  if off = 0x1000008 ∨ off = 0x1300000 ∨ off = 0x1300008 ∨ off = 0x1300020 ∨ (0x1420000 ≤ off ∧ off < 0x1460000) ∨
      off = 0x1600000 ∨ (0x1602000 ≤ off ∧ off < 0x1604000) then
    match t3Event s off size v with
    | some (.registerWrite _ _ _ _) => kernelWrite s off v
    | some i => some (s.postNext i)
    | none => some s
  else none

/-- A store of the package kernel: what the register or doorbell makes of the whole value. -/
def kernelStore (s : State) (off size v : Nat) : Option State :=
  match t3Event s off size v with
  | some (.registerWrite _ _ _ _) | none => kernelWrite s off v
  | some i => some (s.postNext i)

/-- The register or setting that a write reaches, its size, and the whole value. -/
def writtenValue (s : State) (off bytes : Nat) (value : BitVec 256) : Option (Nat × Nat × Nat) :=
  if settingBase ≤ off then some (off, bytes, value.toNat % 2 ^ (8 * bytes))
  else t3Merge s off (leBytes value.toNat bytes)

/-- A write to a register (R321, R322): configuration registers take the holder's writes, each of which restarts the
hold timer; a request for MGSEM is taken from anyone; the kernel's own registers take the kernel's writes. -/
def registerWrite (s : State) (req : Requester) (off size v : Nat) : State :=
  match (if s.holds req then configWrite s off v else none) with
  | some t => mctpAnswer (if t.regs.mgOwner = 0 then t else startHold t) req true
  | none =>
    if off = 0x1500000 && bit v 28 && req != .security then requestSem s req
    else
      match (match req with
        | .kernel => kernelStore s off size v
        | .security => securityWrite s off size v
        | .mctpPcie | .mctpI3c => none) with
      | some t => t
      | none => mctpAnswer s req false

/-- REGISTER_WRITE (R321). An access of no bytes by a management port or the security core is its read of the register.
-/
def execRegisterWrite (requester : Requester) (offset bytes : Nat) (value : BitVec 256) (s : State) : Out :=
  .next (if !s.asks requester then s
    else if bytes = 0 then
      match portRead s requester offset with
      | some v => readAnswer s requester (BitVec.ofNat 256 v)
      | none => mctpAnswer s requester false
    else match writtenValue s offset bytes value with
      | some (off, size, v) => registerWrite s requester off size v
      | none => mctpAnswer s requester false)

/-! ## Host cores and I/O devices (R197, R210) -/

/-- A request to tier 3 performed: what it returns. A store acts as the register says. -/
def t3Request (s : State) (kernel : Bool) (off : Nat) (req : ReqKind) : State × List Byte :=
  match req with
  | .read n => (s, t3Read s kernel off n)
  | .write d => (t3Write s kernel off d, [])
  | .atomic aop ty b new =>
    let n := ty.bits / 8
    let old := t3Read s kernel off n
    (t3Write s kernel off (leBytes (aopValue aop.val ty (leNat old) (b.toNat % 2 ^ ty.bits) (new.toNat % 2 ^ ty.bits)) n),
      old)

/-- A borrowed extent serves a physical request: its lease is in force and grants the kind of access (R300). -/
def extentServes (s : State) (a perm : Nat) : Bool :=
  let e := s.borrowEntry a
  beState e == 2 && (perm == 1 || bePr e) && (perm == 0 || bePw e)

/-- HOST_CORE_ACCESS (R197, R210): a physical access of a host core, or of an I/O device, coherent at the home. An
access to a hole stops the machine; one that no borrowed extent in force covers, or that its package refuses, is
answered as failed. A package that is not up performs none (R317, R320). -/
def execHostCoreAccess (addr : HostAddress) (req : ReqKind) (s : State) : Out :=
  let a := addr.addr.toNat
  let k := reqSpan req
  if !s.up then .next s
  else if s.hole a k.1 then .fault (.hostHole addr.addr)
  else
    let me := s.pkg
    .next (if paTier a = 3 then
      let r := t3Request s (!addr.device) (paOff a) req
      r.1.notice (.response me true r.2)
    else if (s.remote a && !s.live.contains (paPkg a)) || (paTier a == 2 && !extentServes s a k.2) then
      s.notice (.response me false [])
    else
      let f := remoteRefused s 0 a k.2
      if f.1 then f.2.notice (.response me false [])
      else
        let r := serveRequest f.2 a req
        r.1.notice (.response me r.2.1 r.2.2))

end Sys2Proof.Machine
end

