-- ==== Sys2Proof/Machine/Dispatch.lean ====
section
/-! DEFINITION. The dispatch: one arm per instruction. -/

namespace Sys2Proof.Machine

def exec (i : Instr) (s : State) : Host.Outcome State Fault Refusal :=
  match i with
  -- class 0x0
  | .abs w => Sys2Proof.Machine.execAbs w s
  | .add w => Sys2Proof.Machine.execAdd w s
  | .addImm w => Sys2Proof.Machine.execAddImm w s
  | .and w => Sys2Proof.Machine.execAnd w s
  | .andImm w => Sys2Proof.Machine.execAndImm w s
  | .bfi w => Sys2Proof.Machine.execBfi w s
  | .bfx w => Sys2Proof.Machine.execBfx w s
  | .brev w => Sys2Proof.Machine.execBrev w s
  | .clz w => Sys2Proof.Machine.execClz w s
  | .cmp w => Sys2Proof.Machine.execCmp w s
  | .lea w => Sys2Proof.Machine.execLea w s
  | .mad w => Sys2Proof.Machine.execMad w s
  | .max w => Sys2Proof.Machine.execMax w s
  | .maxImm w => Sys2Proof.Machine.execMaxImm w s
  | .min w => Sys2Proof.Machine.execMin w s
  | .minImm w => Sys2Proof.Machine.execMinImm w s
  | .mul w => Sys2Proof.Machine.execMul w s
  | .mulImm w => Sys2Proof.Machine.execMulImm w s
  | .not w => Sys2Proof.Machine.execNot w s
  | .or w => Sys2Proof.Machine.execOr w s
  | .orImm w => Sys2Proof.Machine.execOrImm w s
  | .popc w => Sys2Proof.Machine.execPopc w s
  | .sel w => Sys2Proof.Machine.execSel w s
  | .sha w => Sys2Proof.Machine.execSha w s
  | .shaImm w => Sys2Proof.Machine.execShaImm w s
  | .shl w => Sys2Proof.Machine.execShl w s
  | .shlImm w => Sys2Proof.Machine.execShlImm w s
  | .shr w => Sys2Proof.Machine.execShr w s
  | .shrImm w => Sys2Proof.Machine.execShrImm w s
  | .sub w => Sys2Proof.Machine.execSub w s
  | .subImm w => Sys2Proof.Machine.execSubImm w s
  | .xor w => Sys2Proof.Machine.execXor w s
  | .xorImm w => Sys2Proof.Machine.execXorImm w s
  -- class 0x1
  | .elect w => Sys2Proof.Machine.execElect w s
  | .mov w => Sys2Proof.Machine.execMov w s
  | .movi w => Sys2Proof.Machine.execMovi w s
  | .movx w => Sys2Proof.Machine.execMovx w s
  | .movxw w => Sys2Proof.Machine.execMovxw w s
  | .nop w => Sys2Proof.Machine.execNop w s
  | .plop w => Sys2Proof.Machine.execPlop w s
  | .srd w => Sys2Proof.Machine.execSrd w s
  | .swr w => Sys2Proof.Machine.execSwr w s
  -- class 0x2
  | .fadd w => Sys2Proof.Machine.execFadd w s
  | .faddImm w => Sys2Proof.Machine.execFaddImm w s
  | .fclass w => Sys2Proof.Machine.execFclass w s
  | .fcmp w => Sys2Proof.Machine.execFcmp w s
  | .fcvt w => Sys2Proof.Machine.execFcvt w s
  | .fdiv w => Sys2Proof.Machine.execFdiv w s
  | .ffma w => Sys2Proof.Machine.execFfma w s
  | .fmax w => Sys2Proof.Machine.execFmax w s
  | .fmaxImm w => Sys2Proof.Machine.execFmaxImm w s
  | .fmin w => Sys2Proof.Machine.execFmin w s
  | .fminImm w => Sys2Proof.Machine.execFminImm w s
  | .fmul w => Sys2Proof.Machine.execFmul w s
  | .fmulImm w => Sys2Proof.Machine.execFmulImm w s
  | .frnd w => Sys2Proof.Machine.execFrnd w s
  -- class 0x3
  | .cos w => Sys2Proof.Machine.execCos w s
  | .ex2 w => Sys2Proof.Machine.execEx2 w s
  | .lg2 w => Sys2Proof.Machine.execLg2 w s
  | .rcp w => Sys2Proof.Machine.execRcp w s
  | .rsq w => Sys2Proof.Machine.execRsq w s
  | .sin w => Sys2Proof.Machine.execSin w s
  | .sqrt w => Sys2Proof.Machine.execSqrt w s
  | .tanh w => Sys2Proof.Machine.execTanh w s
  -- class 0x4
  | .matchLanes w => Sys2Proof.Machine.execMatchLanes w s
  | .proj w => Sys2Proof.Machine.execProj w s
  | .projl w => Sys2Proof.Machine.execProjl w s
  | .pushl w => Sys2Proof.Machine.execPushl w s
  | .redl w => Sys2Proof.Machine.execRedl w s
  | .shfl w => Sys2Proof.Machine.execShfl w s
  | .vote w => Sys2Proof.Machine.execVote w s
  -- class 0x5
  | .ld w => Sys2Proof.Machine.execLd w s
  | .ldw w => Sys2Proof.Machine.execLdw w s
  | .ldx w => Sys2Proof.Machine.execLdx w s
  | .st w => Sys2Proof.Machine.execSt w s
  | .stx w => Sys2Proof.Machine.execStx w s
  | .tld w => Sys2Proof.Machine.execTld w s
  -- class 0x6
  | .atom w => Sys2Proof.Machine.execAtom w s
  | .atomx w => Sys2Proof.Machine.execAtomx w s
  | .barArv w => Sys2Proof.Machine.execBarArv w s
  | .barWt w => Sys2Proof.Machine.execBarWt w s
  | .barSync w => Sys2Proof.Machine.execBarSync w s
  | .cas w => Sys2Proof.Machine.execCas w s
  | .fence w => Sys2Proof.Machine.execFence w s
  | .red w => Sys2Proof.Machine.execRed w s
  | .setfSt w => Sys2Proof.Machine.execSetfSt w s
  | .setfAdd w => Sys2Proof.Machine.execSetfAdd w s
  | .waitf w => Sys2Proof.Machine.execWaitf w s
  | .waitw w => Sys2Proof.Machine.execWaitw w s
  -- class 0x7
  | .txb w => Sys2Proof.Machine.execTxb w s
  | .txe w => Sys2Proof.Machine.execTxe w s
  | .txa w => Sys2Proof.Machine.execTxa w s
  | .txq w => Sys2Proof.Machine.execTxq w s
  -- class 0x8
  | .coll w => Sys2Proof.Machine.execColl w s
  | .emit w => Sys2Proof.Machine.execEmit w s
  | .pfetch w => Sys2Proof.Machine.execPfetch w s
  | .tcpy w => Sys2Proof.Machine.execTcpy w s
  | .tcpyResume w => Sys2Proof.Machine.execTcpyResume w s
  | .tseal w => Sys2Proof.Machine.execTseal w s
  | .twait w => Sys2Proof.Machine.execTwait w s
  -- class 0x9
  | .accrd w => Sys2Proof.Machine.execAccrd w s
  | .accwr w => Sys2Proof.Machine.execAccwr w s
  | .bndset w => Sys2Proof.Machine.execBndset w s
  | .bndsetKh w => Sys2Proof.Machine.execBndsetKh w s
  | .bndsetGet w => Sys2Proof.Machine.execBndsetGet w s
  | .mbarArv w => Sys2Proof.Machine.execMbarArv w s
  | .mbarWt w => Sys2Proof.Machine.execMbarWt w s
  | .mbarSync w => Sys2Proof.Machine.execMbarSync w s
  | .mend w => Sys2Proof.Machine.execMend w s
  | .mjmp w => Sys2Proof.Machine.execMjmp w s
  | .mmad w => Sys2Proof.Machine.execMmad w s
  | .mstart w => Sys2Proof.Machine.execMstart w s
  | .mstartResume w => Sys2Proof.Machine.execMstartResume w s
  | .mzero w => Sys2Proof.Machine.execMzero w s
  | .mzeroAuto w => Sys2Proof.Machine.execMzeroAuto w s
  | .mzeroRns w => Sys2Proof.Machine.execMzeroRns w s
  -- class 0xA
  | .rnscfgSet w => Sys2Proof.Machine.execRnscfgSet w s
  | .rnscfgGet w => Sys2Proof.Machine.execRnscfgGet w s
  | .rnschk w => Sys2Proof.Machine.execRnschk w s
  | .rnsf w => Sys2Proof.Machine.execRnsf w s
  | .rnsr w => Sys2Proof.Machine.execRnsr w s
  -- class 0xB
  | .brx w => Sys2Proof.Machine.execBrx w s
  | .callx w => Sys2Proof.Machine.execCallx w s
  | .exit w => Sys2Proof.Machine.execExit w s
  | .lbrk w => Sys2Proof.Machine.execLbrk w s
  | .prio w => Sys2Proof.Machine.execPrio w s
  | .ret w => Sys2Proof.Machine.execRet w s
  | .svc w => Sys2Proof.Machine.execSvc w s
  | .trap w => Sys2Proof.Machine.execTrap w s
  | .tret w => Sys2Proof.Machine.execTret w s
  | .yield w => Sys2Proof.Machine.execYield w s
  -- form P
  | .pair ctl x y => Sys2Proof.Machine.execPair ctl x y s
  -- form C
  | .bra ctl g off => Sys2Proof.Machine.execBra ctl g off s
  | .brm ctl pairs => Sys2Proof.Machine.execBrm ctl pairs s
  | .call ctl g off => Sys2Proof.Machine.execCall ctl g off s
  | .join w => Sys2Proof.Machine.execJoin w s
  | .loop w => Sys2Proof.Machine.execLoop w s
  -- events inside a block
  | .joinRelease core slot => Sys2Proof.Machine.execJoinRelease core slot s
  | .joinTimeout core slot => Sys2Proof.Machine.execJoinTimeout core slot s
  | .crossLaneExecute core slot => Sys2Proof.Machine.execCrossLaneExecute core slot s
  | .stallWatchdog core slot => Sys2Proof.Machine.execStallWatchdog core slot s
  | .copyCommandEnd id => Sys2Proof.Machine.execCopyCommandEnd id s
  | .tierTimeout id => Sys2Proof.Machine.execTierTimeout id s
  | .collStart id peers => Sys2Proof.Machine.execCollStart id peers s
  | .collTimeout id => Sys2Proof.Machine.execCollTimeout id s
  | .txCommit core slot => Sys2Proof.Machine.execTxCommit core slot s
  | .flagWaitSatisfied core slot => Sys2Proof.Machine.execFlagWaitSatisfied core slot s
  | .resultArrival core slot tag congestion => Sys2Proof.Machine.execResultArrival core slot tag congestion s
  | .agePromotion core slot => Sys2Proof.Machine.execAgePromotion core slot s
  | .congestionLevelExpiry core quarter => Sys2Proof.Machine.execCongestionLevelExpiry core quarter s
  | .urgentReadMark core quarter => Sys2Proof.Machine.execUrgentReadMark core quarter s
  | .fresumeRetry cmd => Sys2Proof.Machine.execFresumeRetry cmd s
  | .fresumeKill cmd => Sys2Proof.Machine.execFresumeKill cmd s
  | .stoppedSeqArrival core barrier => Sys2Proof.Machine.execStoppedSeqArrival core barrier s
  | .boundCacheEvict cohort entry => Sys2Proof.Machine.execBoundCacheEvict cohort entry s
  -- memory system
  | .l1Eviction core region => Sys2Proof.Machine.execL1Eviction core region s
  | .lazyReleaseDrain slice core => Sys2Proof.Machine.execLazyReleaseDrain slice core s
  | .postedWriteAck core slot => Sys2Proof.Machine.execPostedWriteAck core slot s
  | .writebackEngine slice => Sys2Proof.Machine.execWritebackEngine slice s
  | .pageWalk core va store => Sys2Proof.Machine.execPageWalk core va store s
  | .invdb addr => Sys2Proof.Machine.execInvdb addr s
  | .invalidationComplete => Sys2Proof.Machine.execInvalidationComplete s
  | .channelRetire stack channel => Sys2Proof.Machine.execChannelRetire stack channel s
  -- dispatch
  | .rqdb queue addr => Sys2Proof.Machine.execRqdb queue addr s
  | .routeStart queue => Sys2Proof.Machine.execRouteStart queue s
  | .waypointEvaluate route wp => Sys2Proof.Machine.execWaypointEvaluate route wp s
  | .waypointComplete route wp => Sys2Proof.Machine.execWaypointComplete route wp s
  | .stallCounterTick => Sys2Proof.Machine.execStallCounterTick s
  | .bind addr => Sys2Proof.Machine.execBind addr s
  | .bindResume addr => Sys2Proof.Machine.execBindResume addr s
  | .preemptdb addr => Sys2Proof.Machine.execPreemptdb addr s
  | .blockRetire core => Sys2Proof.Machine.execBlockRetire core s
  -- errors
  | .uncorrectableError unit => Sys2Proof.Machine.execUncorrectableError unit s
  | .correctedError kind inst corepos => Sys2Proof.Machine.execCorrectedError kind inst corepos s
  | .leakTick kind inst => Sys2Proof.Machine.execLeakTick kind inst s
  -- pod
  | .memberLoss pkg => Sys2Proof.Machine.execMemberLoss pkg s
  | .podid value => Sys2Proof.Machine.execPodid value s
  | .linkTraining port peer => Sys2Proof.Machine.execLinkTraining port peer s
  | .inboundRequest src key addr req => Sys2Proof.Machine.execInboundRequest src key addr req s
  -- lending
  | .lendcmdOffer cmd => Sys2Proof.Machine.execLendcmdOffer cmd s
  | .lendcmdRecall cmd => Sys2Proof.Machine.execLendcmdRecall cmd s
  | .lendcmdFree cmd => Sys2Proof.Machine.execLendcmdFree cmd s
  | .leaseAccept extent session => Sys2Proof.Machine.execLeaseAccept extent session s
  | .leaseRefusal answer => Sys2Proof.Machine.execLeaseRefusal answer s
  | .offerTimeout extent => Sys2Proof.Machine.execOfferTimeout extent s
  | .leaseRenewal extent => Sys2Proof.Machine.execLeaseRenewal extent s
  | .leaseExpiry extent => Sys2Proof.Machine.execLeaseExpiry extent s
  | .borrowerExpiry entry => Sys2Proof.Machine.execBorrowerExpiry entry s
  | .recallMessage entry => Sys2Proof.Machine.execRecallMessage entry s
  | .borrowedExtentWrite entry value => Sys2Proof.Machine.execBorrowedExtentWrite entry value s
  | .releaseMessage release => Sys2Proof.Machine.execReleaseMessage release s
  | .releaseAck entry => Sys2Proof.Machine.execReleaseAck entry s
  | .recallDeadline extent => Sys2Proof.Machine.execRecallDeadline extent s
  | .backInvalidateSnoop entry line => Sys2Proof.Machine.execBackInvalidateSnoop entry line s
  | .heartbeat peer => Sys2Proof.Machine.execHeartbeat peer s
  | .heartbeatLoss peer => Sys2Proof.Machine.execHeartbeatLoss peer s
  | .leaseAcknowledgement entry sent term grant ide => Sys2Proof.Machine.execLeaseAcknowledgement entry sent term grant ide s
  | .cxlMemRequest extent borrower offset request => Sys2Proof.Machine.execCxlMemRequest extent borrower offset request s
  | .fabricManagerElection attested => Sys2Proof.Machine.execFabricManagerElection attested s
  -- platform
  | .bootStage digest signature version => Sys2Proof.Machine.execBootStage digest signature version s
  | .mregExtend reg digest => Sys2Proof.Machine.execMregExtend reg digest s
  | .spdmRequest requester block => Sys2Proof.Machine.execSpdmRequest requester block s
  | .tamperAlarm source => Sys2Proof.Machine.execTamperAlarm source s
  | .mgsemAcq requests => Sys2Proof.Machine.execMgsemAcq requests s
  | .mgsemRel requester => Sys2Proof.Machine.execMgsemRel requester s
  | .mgsemTimeout => Sys2Proof.Machine.execMgsemTimeout s
  | .resetcmd requester value => Sys2Proof.Machine.execResetcmd requester value s
  | .powerOnReset => Sys2Proof.Machine.execPowerOnReset s
  | .hostCoreReset image => Sys2Proof.Machine.execHostCoreReset image s
  | .clockUpdate watts junction => Sys2Proof.Machine.execClockUpdate watts junction s
  | .thermalTrip => Sys2Proof.Machine.execThermalTrip s
  | .healthUpdate figures => Sys2Proof.Machine.execHealthUpdate figures s
  | .registerWrite requester offset bytes value => Sys2Proof.Machine.execRegisterWrite requester offset bytes value s
  | .hostCoreAccess addr req => Sys2Proof.Machine.execHostCoreAccess addr req s

end Sys2Proof.Machine
end

