-- ==== Sys2Proof/Machine/Turns.lean ====
section
/-! DEFINITION. What makes a clock: which party a quarter issues (R29 to R33, R80), the sequencer's and the engines' turns,
the events that fall due at the end of a clock, and the start of the next one. -/

namespace Sys2Proof.Machine

/-! ## A quarter's turn -/

/-- The fault of a word that does not decode, in a thread (R344, R425). -/
def decodeTrap (f : DecodeFault) (t : Thread) : Trap :=
  match f with
  | .illegalOpcode => Trap.plain cIllegalOpcode 0
  | .illegalEncoding => Trap.plain cIllegalEncoding 0
  | .illegalPair => Trap.plain cIllegalPair 0
  | .illegalOperand x => Trap.plain cIllegalOperand x
  | .role => Trap.plain cRole (roleCode t.role)

/-- A member of a party whose word cannot be fetched or decoded: its turn to issue is used up all the same (R31, R32).
-/
def faultOne (f : Thread → Trap) (c : Nat) (s : State) (q : Nat) : State :=
  let t := s.thread c q
  if !t.live then s
  else match resumeFault s c q with
    | some r => raiseFault (startIssue r.1 c q noCtl) c q r.2
    | none => raiseFault (startIssue s c q noCtl) c q (f t)

def readyOf (s : State) (c k : Nat) : List Thread :=
  s.threads.filter (fun t => t.core == c && quarterOf t.slot == k && ready s t)

/-- Threads that arrive at a cross-lane word in this clock (R43). -/
def arrivals (s : State) (c k : Nat) : State :=
  (s.threads.filter (fun t => t.core == c && quarterOf t.slot == k)).foldl (fun s t =>
    match arrivesNow s (s.thread c t.slot) with
    | some i => match crossForm i with
      | some w => crossArrive i w c (noteFetched s s c t.slot) t.slot
      | none => s
    | none => s) s

/-- The end of an issue clock for the other threads of the quarter, and for KEEP. -/
def afterIssue (s : State) (c k : Nat) (rs : List Thread) (slots : List Nat) : State :=
  ageOthers (noteKept s c k slots) c rs slots

/-- The members of a held party can still issue. -/
def stillHeld (s : State) (c : Nat) (slots : List Nat) : Bool :=
  slots.all (fun q => let t := s.thread c q; t.live && t.susp == .none && !t.frozen)

/-- The party that a quarter issues: one that its bank reads have held (R80), one that KEEP holds together (R31), or
that of the table's head (R30). -/
def partyNow (s : State) (c k : Nat) (rs : List Thread) : Option (List Nat × Bool) :=
  match (((s.block c).holds.find? (fun h => h.1 == k)).map (·.2)).filter (stillHeld s c) with
  | some p => some (p, true)
  | none =>
    match keptParty s c k rs with
    | some p => some (p, false)
    | none => (headOf (s.block c) rs).map (fun h => (partyOf s c rs h, false))

/-- The word that a party stands at: one it has arrived at, or the one fetched for its thread of the lowest slot, which
is every member's (`partyOf`); each member passes its own line. -/
def partyWord (s : State) (c : Nat) (slots : List Nat) : State × Except Trap (Except DecodeFault Instr) :=
  let q := slots.headD 0
  match (s.thread c q).wait with
  | .cross i _ _ _ => (s, .ok (.ok i))
  | _ =>
    let f := fetchWord s (s.agent c) q (s.thread c q).pc
    ((slots.drop 1).foldl (fun u q => noteFetched s u c q) f.1, f.2.map decodeThread)

/-- What a quarter does in a clock: nothing more than the state says, or the word that a party issues, with the threads
that were ready. -/
def quarterPlan (s : State) (c k : Nat) : State × Option (Instr × List Nat × List Thread) :=
  if (s.block? c).isNone then (s, none)
  else
    let s := arrivals s c k
    let s := clearYields s c k (readyOf s c k)
    let rs := readyOf s c k
    match partyNow s c k rs with
    | none => (noteKept s c k [], none)
    | some (slots, held) =>
      let s := s.modBlock c (fun b => { b with holds := b.holds.filter (fun h => h.1 != k) })
      let w := partyWord s c slots
      match w.2 with
      | .error t => (afterIssue (slots.foldl (faultOne (fun _ => t) c) w.1) c k rs slots, none)
      | .ok (.error f) => (afterIssue (slots.foldl (faultOne (decodeTrap f) c) w.1) c k rs slots, none)
      | .ok (.ok i) =>
        if !held && bankHold (slots.map (s.thread c)) i != 0 then
          (w.1.modBlock c (fun b => { b with holds := (k, slots) :: b.holds }), none)
        else if held && !slots.all (fun q => tagsArrived (w.1.thread c q) (Ctl.tags i.ctl)) then (w.1, none)
        else (w.1, some (i, slots, rs))

/-- After the word. -/
def quarterDone (c k : Nat) (i : Instr) (slots : List Nat) (rs : List Thread) (s : State) : State :=
  let s := if throttled i then { s with memIssues := (c, k, s.clock) :: s.memIssues } else s
  afterIssue (s.setActor .none) c k rs slots

/-! ## The other turns -/

/-- A RUNNING sequencer that is neither busy nor waiting for a page has its next word, or goes on waiting at an
MBAR.SYNC that has arrived; a STOPPED one supplies the arrivals that it owes for completions of earlier clocks (R233).
-/
def seqPlan (s : State) (c : Nat) : State × Option Instr :=
  if (s.block? c).isNone then (s, none)
  else
    let q := (s.block c).seq
    match q.state with
    | .running =>
      if q.waiting.isSome || s.clock < q.busy then (s, none)
      else match q.armed with
        | some n => (seqWait s c n, none)
        | none => seqFetch s c
    | .stopped =>
      ((q.owed.filter (fun o => o.2 < s.clock)).foldl
        (fun (s : State) o => s.post (.stoppedSeqArrival c (Fin.ofNat 32 o.1))) s, none)
    | .idle => (s, none)

/-- Every open command takes a step, in command order, unless its engine or its data lets it wait in this clock: a free
choice (log entry 28). -/
def copiesTurn (s : State) : State :=
  (sortNat ((s.copies.filter (fun k => k.ended.isNone)).map (·.id))).foldl (fun s id =>
    let ch := s.takeBool
    if ch.1 then ch.2 else copyStep ch.2 id) s

/-! ## What falls due -/

/-- A waiting thread's flag or word has what it waits for, or cannot be read. -/
def flagDue (s : State) (t : Thread) : Bool :=
  match pollWait t.wait t.core t.slot s with
  | .hold _ => false
  | _ => true

def threadDue (s : State) (t : Thread) : List Instr :=
  if !t.live || t.susp != .none then []
  else match t.wait with
    | .join _ expiry _ _ =>
      if joinComplete s t.core t.slot then [.joinRelease t.core t.slot]
      else if expiry ≤ s.clock then [.joinTimeout t.core t.slot] else []
    | .flag _ _ _ _ _ _ | .word _ _ => if flagDue s t then [.flagWaitSatisfied t.core t.slot] else []
    | .cross _ _ _ since =>
      if since + 2 ^ 20 ≤ s.clock && !crossReady s t.core t.slot then [.stallWatchdog t.core t.slot] else []
    | _ => []

def engineDue (s : State) (k : CopyCmd) : List Instr :=
  if k.ended.isSome then []
  else if collDue s k then [.collTimeout k.id]
  else if copyDue s k then [.tierTimeout k.id] else []

def leaseDue (s : State) (n : Fin 8192) : List Instr :=
  let e := s.cad n.val
  match cadState e with
  | 1 => if s.offeredAt n.val + 100000 ≤ s.timeUs then [.offerTimeout n] else []
  | 2 => if cadExpiry e ≤ s.timeUs then [.leaseExpiry n] else []
  | 3 => if s.deadlineOf n.val ≤ s.timeUs then [.recallDeadline n] else []
  | _ => []

def borrowDue (s : State) (i : Fin 4096) : List Instr :=
  let e := s.borrow i.val
  if beState e = 2 ∧ beExpiry e ≤ s.timeUs then [.borrowerExpiry i] else []

/-- MGSEM's timer has run out (R322). -/
def semDue (s : State) : Bool := s.regs.mgOwner != 0 && s.regs.mgDeadlineUs ≤ s.timeUs

/-- The events that have fallen due when every turn of a clock is over. Each leaves its own cause behind it. -/
def dueEvents (s : State) : List Instr :=
  s.threads.flatMap (threadDue s) ++
  s.copies.flatMap (engineDue s) ++
  (s.blocks.filter (blockOver s)).map (fun b => .blockRetire b.core) ++
  (if s.invFifo.isEmpty then [] else [.invalidationComplete]) ++
  (s.congestion.filter (fun x => x.untilClock ≤ s.clock)).map (fun x => .congestionLevelExpiry x.core x.quarter) ++
  (s.cadastre.flatMap (fun x => leaseDue s (Fin.ofNat 8192 x.1))) ++
  (s.borrowed.flatMap (fun x => borrowDue s (Fin.ofNat 4096 x.1))) ++
  s.silentPeers.map (fun p => .heartbeatLoss (BitVec.ofNat 16 p)) ++
  (if semDue s then [.mgsemTimeout] else []) ++
  ((((s.borrowLines.filter (·.dirty)).map (fun l => s.sliceOf (32 * l.sector))).dedup).filter (fun l =>
    sliceCapacity / 4 < (sliceBorrowed s l).length)).map (fun l => .writebackEngine l)

/-! ## The next clock -/

/-- Writes of block registers that every thread now sees (R67, R52). -/
def Block.settle (now : Nat) (b : Block) : Block :=
  let old := b.uniPend.filter (fun w => w.clock + 4 ≤ now)
  let young := fun (ws : List RegWrite) => ws.filter (fun w => now < w.clock + 4)
  let seen := fun (ws : List RegWrite) (v : DWord) => regSeen (ws.filter (fun w => w.clock + 4 ≤ now)) now none v
  { b with
    uni := ((old.map (·.reg)).dedup).foldl (fun m n => match uniBest (old.filter (fun w => w.reg == n)) with
      | some w => SMap.set m n w.value
      | none => m) b.uni
    uniPend := b.uniPend.filter (fun w => now < w.clock + 4)
    tvec := seen b.tvecPend b.tvec
    tvecPend := young b.tvecPend
    rnsCfg := (seen b.rnsPend (b.rnsCfg.setWidth 64)).setWidth 32
    rnsPend := young b.rnsPend
    roles := b.prioPend.foldl (fun rs p => rs.map (fun r => if r.role = p.2.1 then { r with prio := p.2.2 } else r))
      b.roles
    prioPend := [] }

/-- Results and acknowledgements that come in the new clock: a free choice for each, the oldest result without one when
the clock before issued nothing (R73). A slice's response carries a free congestion level (R195). -/
def offerArrivals (s : State) : State :=
  let late := s.threads.flatMap (fun t => (t.pend.filter (fun p => !p.arrived)).map (fun p => (t.core, t.slot, p.tag)))
  let s' := (late.zipIdx).foldl (fun (s : State) x =>
    let ch := s.takeBool
    let lv := ch.2.takeNat 4
    if !ch.1 || (x.2 == 0 && !s.issued) then
      lv.2.post (.resultArrival x.1.1 x.1.2.1 x.1.2.2 (BitVec.ofNat 2 lv.1)) else lv.2) s
  (s.threads.filter (fun t => !t.posted.isEmpty)).foldl (fun (s : State) t =>
    let ch := s.takeBool
    if !ch.1 then ch.2.post (.postedWriteAck t.core t.slot) else ch.2) s'

/-- The counters leak whose period divides the package time, after whatever the turns of this instant have counted
(R288). -/
def leaksTurn (s : State) : State :=
  let due := s.counters.filter (fun r => (s.leakOf r.kind).1 != 0 && s.timeUs % (s.leakOf r.kind).1 == 0)
  { s with agenda := s.agenda ++ due.map (fun r => Instr.leakTick r.kind r.inst) }

/-- The events of a microsecond: the walker counts stalls and reads flags again (R258, R267), and each millisecond the
heartbeats go out (R302). A halted package has none (R320). How often a flag that is not met is read again R258 leaves
open (DESIGN CHOICE, log entry 74). -/
def tickUs (s : State) : State :=
  if s.halted then s
  else
    let open' := s.routes.filter (fun r => !r.completed)
    let polls := open'.flatMap (fun r => ((List.range r.n).filter (fun i =>
      let w := (readWp s r.id i).2
      w.predCnt == 0 && (w.state == 0 || w.state == 2) && !s.allMet r.id i w)).map (fun i => Instr.waypointEvaluate r.id i))
    let s : State := { s with agenda := s.agenda ++ (if s.routes.isEmpty then [] else [.stallCounterTick]) ++ polls }
    if s.timeUs % 1000 = 0 then sendHeartbeats s else s

/-- In the first clock of a microsecond the leaks have their turn, of a halted package too (R288). -/
def leakTurns (s : State) : List Turn := if s.usAcc = 0 then [.leaks] else []

/-- The turns of a clock: every quarter, then its threads' barrier arrivals, then the sequencer, core by core, then the
engines (R232) and the leaks. -/
def newTurns (s : State) : List Turn :=
  (sortNat ((s.blocks.filter (fun b => !b.retired && !b.killed)).map (·.core))).flatMap (fun c =>
    (if (s.threadsOf c).any (·.live) then [.quarter c 0, .quarter c 1, .quarter c 2, .quarter c 3, .barriers c] else []) ++
    (if (s.block c).seq.state = .idle then [] else [.sequencer c])) ++
  (if s.copies.any (fun k => k.ended.isNone) then [.copies] else []) ++ leakTurns s

/-- Time goes on by one clock. -/
def State.tick (s : State) : State :=
  if s.usAcc + 1 < s.regs.clkMHz then { s with clock := s.clock + 1, usAcc := s.usAcc + 1 }
  else tickUs { s with clock := s.clock + 1, usAcc := 0, timeUs := s.timeUs + 1 }

/-- The next clock: waits that are over, what arrives, and the turns. -/
def advance (s : State) : State :=
  let s := s.tick
  let s : State := { s with
    blocks := s.blocks.map (Block.settle s.clock)
    memIssues := s.memIssues.filter (fun m => s.clock < m.2.2 + 16) }
  let s := offerArrivals (releaseBatches (releaseBarriers s))
  { s with issued := false, turns := newTurns s }

/-- What still happens to a package that has halted, whose cores and links have stopped (R320): errors and the leaks of
their counters (R288), alarms, its clock, the resets, and what the management ports ask for. -/
def outlivesHalt : Instr → Bool
  | .uncorrectableError _ | .correctedError _ _ _ | .leakTick _ _ | .spdmRequest _ _ | .tamperAlarm _ | .mgsemAcq _ | .mgsemRel _
  | .mgsemTimeout | .resetcmd _ _ | .powerOnReset | .clockUpdate _ _ | .thermalTrip | .healthUpdate _
  | .registerWrite _ _ _ _ => true
  | _ => false

/-- Of the turns only the leaks' is one that a halted package has. -/
def Turn.outlivesHalt : Turn → Bool
  | .leaks => true
  | .quarter _ _ | .barriers _ | .sequencer _ | .copies => false

/-- The end of a clock: what has fallen due comes first. A halted package only keeps time, by which MGSEM's timer runs
out (R322) and the counters leak (R288). -/
def endClock (s : State) : State :=
  if s.halted then (if semDue s then s.setAgenda [.mgsemTimeout] else
    let t := s.tick
    t.setTurns (leakTurns t))
  else match dueEvents s with
    | [] => advance s
    | l => s.setAgenda l

end Sys2Proof.Machine
end

