-- ==== Sys2Proof/Machine/Step.lean ====
section
/-! DEFINITION. The step: the next event of the agenda, else the next turn of the clock, else the end of the clock. -/

namespace Sys2Proof.Machine

/-- The state that a next outcome carries goes through a function. -/
def Out.after (o : Out) (f : State → State) : Out :=
  match o with
  | .next t => .next (f t)
  | .fault e => .fault e
  | .refused r => .refused r

/-- One turn. -/
def runTurn (t : Turn) (s : State) : Host.Outcome State Fault Refusal :=
  match t with
  | .quarter c k =>
    let p := quarterPlan s c k
    match p.2 with
    | none => .next p.1
    | some (i, slots, rs) => Out.after (exec i (p.1.setActor (.party c slots))) (quarterDone c k i slots rs)
  | .barriers c => .next (settleArrivals s c)
  | .sequencer c =>
    let p := seqPlan s c
    match p.2 with
    | none => .next p.1
    | some i => Out.after (exec i (p.1.setActor (.seq c))) (fun t => t.setActor .none)
  | .copies => .next (copiesTurn s)
  | .leaks => .next (leaksTurn s)

def step (s : State) : Host.Outcome State Fault Refusal :=
  match s.agenda with
  | i :: r => if s.halted && !outlivesHalt i then .next (s.setAgenda r) else exec i (s.setAgenda r)
  | [] =>
    match s.turns with
    | t :: r => if s.halted && !t.outlivesHalt then .next (s.setTurns r) else runTurn t (s.setTurns r)
    | [] => .next (endClock s)

/-! ## Placing a word -/

/-- The role that may issue an instruction. -/
def roleFor (i : Instr) : Role := ((([.gen, .copy, .feed, .epi] : List Role)).find? (fun r => i.roleOk r)).getD .gen

/-- A block of one thread, in slot 0, on core 0, whose context maps the first TiB of addresses to tier 0 of this package
by one leaf at 0x10000 and whose word address is 0 (log entry 1). -/
def State.withFetchWord (s : State) (nbits w : Nat) : State :=
  let base := mkPa s.pkg 0 0
  let leaf := base / 2 ^ 16 + 2 ^ 48 * (1 + 2 + 4 + 8 + 16 + 64 + 128)
  let v : IWord := BitVec.ofNat 96 (w % 2 ^ nbits)
  let mem := writeLe (writeLe s.mem base 12 v.toNat) (base + 0x10000) 16 leaf
  let thread := decodeThread v
  let stream := match thread with
    | .ok _ => false
    | .error _ => (match decodeStream v with
      | .ok _ => true
      | .error _ => false)
  let role := match thread with
    | .ok i => roleFor i
    | .error _ => .gen
  let b := { Block.blank 0 with
    rect := 1
    table := base + 0x10000
    saveBase := 0x1000000
    img := (List.range 256).map (fun i => base + 0x1000000 + 65536 * i)
    roles := [⟨role, 0, 0, 48, 384, 0, 0⟩]
    seq := { Seq.blank with state := if stream then .running else .idle } }
  { s with
    mem := mem
    agenda := []
    halted := false
    blocks := b :: s.blocks.filter (fun x => x.core != 0)
    threads := { Thread.blank 0 0 with role := role, live := true } :: s.threads.filter (fun t => t.core != 0)
    slots := ⟨0, 1, 2, 0, 0⟩ :: s.slots.filter (fun e => e.core != 0)
    cores := s.cores.filter (fun r => r.core != 0)
    xlate := s.xlate.filter (fun e => e.1 != 0)
    turns := if stream then [.sequencer 0] else [.quarter 0 0, .barriers 0] }

end Sys2Proof.Machine
end

