-- ==== Sys2Proof/Safety.lean ====
section
/-! DEFINITION. The terms in which statements about the machine are made: a thread that may issue a word, what a party's
word leaves (R30, R181, R273), the results of the shared shapes, and the invariants that every step keeps. -/

namespace Sys2Proof.Machine

/-! ## The issue of a word by a party -/

/-- The state in which a thread reads the operands of a word: its age is 0, and the tags that the word waits for have
committed. -/
def issueState (i : Instr) (s : State) (c q : Nat) : State :=
  (commitTags (startIssue s c q i.ctl) c q (Ctl.tags i.ctl)).1

/-- Nothing that R273 puts before execution stops a thread's word: the thread is live, the word has no fault of decoding
for it, none of the results it waits for is poisoned or lost; and under a true guard no transaction forbids it, no latch
operand is lost and no operand register is struck. -/
def mayIssue (i : Instr) (s : State) (c q : Nat) : Bool :=
  let u := (issueState i s c q).thread c q
  (s.thread c q).live && (resumeFault s c q).isNone &&
    (threadDecodeFault (s.block c) (s.thread c q) i).isNone &&
    (commitTags (startIssue s c q i.ctl) c q (Ctl.tags i.ctl)).2.isNone &&
    (!Guard.holds i.guard u ||
      (!(u.tx.isSome && txForbidden i) && (lostLatch u (liveUses u i)).isNone && !readsStruck u (liveUses u i)))

/-- The guard as the thread reads it (R333). -/
def guardOn (i : Instr) (s : State) (c q : Nat) : Bool := Guard.holds i.guard ((issueState i s c q).thread c q)

/-- What a word leaves of the state in which one thread reads its operands. -/
abbrev Effect := State → Nat → Nat → State

/-- What one thread's word leaves: one effect under a true guard, another under a false one. -/
def memberState (i : Instr) (on off : Effect) (c : Nat) (s : State) (q : Nat) : State :=
  if guardOn i s c q then on (issueState i s c q) c q else off (issueState i s c q) c q

/-- Every thread of a party, in slot order and each in the state that those before it left, may issue the word and,
where its guard is true, meets a condition on its operands. -/
def partyOk (i : Instr) (ok : State → Nat → Nat → Bool) (on off : Effect) (c : Nat) : State → List Nat → Bool
  | _, [] => true
  | s, q :: r =>
    mayIssue i s c q && (!guardOn i s c q || ok (issueState i s c q) c q) &&
      partyOk i ok on off c (memberState i on off c s q) r

/-- A word completes: where every thread of the acting party may issue it and meets the condition, the machine answers
the next state, in which each thread in slot order has had its effect. -/
def Completes (i : Instr) (ok : State → Nat → Nat → Bool) (on off : Effect) : Prop :=
  ∀ (s : State) (c : Nat) (slots : List Nat), s.actor = .party c slots → partyOk i ok on off c s slots = true →
    exec i s = .next (slots.foldl (memberState i on off c) s)

/-- A word traps: a thread that issues it alone, with its guard true, takes the fault that its operands give, in the
state that its checks have left. -/
def Traps (i : Instr) (why : State → Nat → Nat → Option (State × Trap)) : Prop :=
  ∀ (s : State) (c q : Nat), s.actor = .party c [q] → mayIssue i s c q = true → guardOn i s c q = true →
    ∀ x : State × Trap, why (issueState i s c q) c q = some x → exec i s = .next (raiseFault x.1 c q x.2)

/-- No condition on the operands. -/
def always : State → Nat → Nat → Bool := fun _ _ _ => true

/-! ## The shapes of results -/

/-- The thread does something and goes on after the word (R93). -/
def thenNext (f : Effect) : Effect := fun s c q => completeWord (f s c q) c q

/-- The thread only goes on. -/
def justNext : Effect := fun s c q => completeWord s c q

/-- A fixed-latency result of `n` registers (R70, R76). -/
def putFixed (d : Opnd) (nwb : Bool) (n : Nat) (f : State → Nat → Nat → Nat × Flags) : Effect :=
  thenNext (fun s c q => fixedResult s c q d nwb n (f s c q).1 (f s c q).2)

/-- A fixed-latency word under a false guard (R76). -/
def skipFixed (d : Opnd) (nwb : Bool) : Effect := thenNext (fun s c q => fixedSkip s c q d nwb)

/-- A fixed-latency predicate; k1 takes 1 or 0, suppressed (R388). -/
def putPred (prd : Nat) (f : State → Nat → Nat → Bool) : Effect :=
  thenNext (fun s c q => (writePred s c q prd (f s c q)).modThread c q (fun t =>
    t.pushLatch ⟨BitVec.ofNat 32 (b2n (f s c q)), none, true⟩))

/-- A result under a tag (R73): what it will write, fixed at issue. -/
def putTag (k : Ctl) (d : Opnd) (n : Nat) (f : State → Nat → Nat → Nat × Flags) : Effect :=
  thenNext (fun s c q => allocTag s c q
    { emptyResult k.alloc.toNat (s.thread c q).pc d n with
      dst := splitValue (dstRegs (s.thread c q) d n) (f s c q).1, flags := (f s c q).2 })

/-- An empty result under a tag (R75). -/
def skipTag (k : Ctl) (d : Opnd) (n : Nat) : Effect :=
  thenNext (fun s c q => allocTag s c q (emptyResult k.alloc.toNat (s.thread c q).pc d n))

/-! ## Exact values and rounding

A finite value is an integer times a power of two, as a pair. -/

def FVal.finite : FVal → Bool
  | .zero _ | .fin _ _ _ => true
  | _ => false

def FVal.exact : FVal → Int × Int
  | .fin s m e => (signedM s m, e)
  | _ => (0, 0)

/-- a − b. -/
def diffOf (a b : Int × Int) : Int × Int := sumAt a.1 a.2 (-b.1) b.2

def atMost (a b : Int × Int) : Prop := (diffOf a b).1 ≤ 0

def absOf (a : Int × Int) : Int × Int := (a.1.natAbs, a.2)

/-- R115: a code of a format holds an exact value rounded in a mode. Of all finite values of the format it is the
greatest that is not above the exact one (RD), the least that is not below it (RU), the nearer of these to zero (RZ),
or the nearest, of two as near the one with an even code (RNE). -/
def RoundsTo (f : FFmt) (rm : Rnd) (x : Int × Int) (code : Nat) : Prop :=
  code < 2 ^ f.width ∧ (f.decode code).finite = true ∧
  let v := (f.decode code).exact
  ∀ k, k < 2 ^ f.width → (f.decode k).finite = true →
    let w := (f.decode k).exact
    let below := atMost v x ∧ (atMost w x → atMost w v)
    let above := atMost x v ∧ (atMost x w → atMost v w)
    match rm with
    | .rd => below
    | .ru => above
    | .rz => (0 ≤ x.1 → below) ∧ (x.1 ≤ 0 → above)
    | .rne => atMost (absOf (diffOf x v)) (absOf (diffOf x w)) ∧
        (atMost (absOf (diffOf x w)) (absOf (diffOf x v)) → (diffOf v w).1 ≠ 0 → code % 2 = 0)

/-- R115, R119: what an operation of one rounding delivers of its exact result in a format with infinities: the
rounded value, of its sign, with NX where it differs; above the largest finite value, that value or infinity as the mode
says, with NX, and with OF where it is infinity. -/
def Delivers (f : FFmt) (rm : Rnd) (x : Int × Int) (r : Nat × Flags) : Prop :=
  let top := (f.decode (f.largest false)).exact
  let neg := decide (x.1 < 0)
  let has := fun (g : Flags) => r.2 &&& g ≠ 0
  (x.1 ≠ 0 → bit r.1 (f.ebits + f.fbits) = neg) ∧
  (atMost (absOf x) top → RoundsTo f rm x r.1 ∧ (has Flags.nx ↔ (diffOf (f.decode r.1).exact x).1 ≠ 0) ∧
    ¬has Flags.of ∧ ¬has Flags.dz ∧ ¬has Flags.iv ∧ (has Flags.uf → has Flags.nx)) ∧
  (¬atMost (absOf x) top →
    let out : Prop := match rm with
      | .rne => atMost (2 * top.1 + 1, top.2 - 1) (absOf x)
      | .rz => False
      | .ru => neg = false
      | .rd => neg = true
    has Flags.nx ∧ (out → r.1 = f.infinity neg ∧ has Flags.of) ∧ (¬out → r.1 = f.largest neg))

/-- R115: the code holds a real value rounded in a mode, where the value itself is no pair: `lo w` says that w is not
above it, `hi w` that w is not below it. Of two values the nearer is the one on its side of their mean. -/
def RoundsBetween (f : FFmt) (rm : Rnd) (lo hi : Int × Int → Prop) (code : Nat) : Prop :=
  code < 2 ^ f.width ∧ (f.decode code).finite = true ∧
  let v := (f.decode code).exact
  ∀ k, k < 2 ^ f.width → (f.decode k).finite = true →
    let w := (f.decode k).exact
    let sum := sumAt v.1 v.2 w.1 w.2
    let mean : Int × Int := (sum.1, sum.2 - 1)
    let below := lo v ∧ (lo w → atMost w v)
    let above := hi v ∧ (hi w → atMost v w)
    match rm with
    | .rd => below
    | .ru => above
    | .rz => (lo (0, 0) → below) ∧ (hi (0, 0) → above)
    | .rne => (diffOf v w).1 ≠ 0 → (atMost v w → hi mean) ∧ (atMost w v → lo mean) ∧
        (lo mean → hi mean → code % 2 = 0)

/-- R119: what an operation of one rounding delivers of such a value, in the way that `Delivers` says it of a pair. -/
def DeliversBetween (f : FFmt) (rm : Rnd) (neg : Bool) (lo hi : Int × Int → Prop) (r : Nat × Flags) : Prop :=
  let top := (f.decode (f.largest false)).exact
  let within := fun (w : Int × Int) => if neg then lo (-w.1, w.2) else hi w
  let beyond := fun (w : Int × Int) => if neg then hi (-w.1, w.2) else lo w
  let has := fun (g : Flags) => r.2 &&& g ≠ 0
  let v := (f.decode r.1).exact
  bit r.1 (f.ebits + f.fbits) = neg ∧
  (within top → RoundsBetween f rm lo hi r.1 ∧ (has Flags.nx ↔ ¬(lo v ∧ hi v)) ∧
    ¬has Flags.of ∧ ¬has Flags.dz ∧ ¬has Flags.iv ∧ (has Flags.uf → has Flags.nx)) ∧
  (¬within top →
    let out : Prop := match rm with
      | .rne => beyond (2 * top.1 + 1, top.2 - 1)
      | .rz => False
      | .ru => neg = false
      | .rd => neg = true
    has Flags.nx ∧ (out → r.1 = f.infinity neg ∧ has Flags.of) ∧ (¬out → r.1 = f.largest neg))

/-- The mantissa of an accumulator element after some steps of renormalisation (R125). -/
def shifted (m : Int) : Nat → Int
  | 0 => m
  | k + 1 => roundWindow (shifted m k) 0 8

/-- R125: RoundWindow is the nearest integer to m × 2^x / 2^e, of two as near the even one. -/
def RoundsWindow (m x e : Int) : Prop :=
  (e ≤ x → roundWindow m x e = m * 2 ^ (x - e).toNat) ∧
  (x < e → let d : Int := 2 ^ (e - x).toNat
    2 * (m - roundWindow m x e * d).natAbs ≤ d ∧
      (2 * ((m - roundWindow m x e * d).natAbs : Int) = d → roundWindow m x e % 2 = 0))

/-- R124, R127: what the products of one element bring: the exact sum of the finite ones, over any exponent that none of
them lies below; the greatest exponent of a finite nonzero one; and NaN, an infinity, or neither. -/
def GathersProducts (ps : List FVal) (c : Chunk) : Prop :=
  (∀ e : Int, e ≤ 0 → (∀ p ∈ ps, e ≤ p.exact.2) →
    e ≤ c.e ∧ c.m * 2 ^ (c.e - e).toNat = (ps.map (fun p => p.exact.1 * 2 ^ (p.exact.2 - e).toNat)).sum) ∧
  (c.top = none ↔ ∀ neg m e, FVal.fin neg m e ∉ ps) ∧
  (∀ t, c.top = some t →
    (∃ neg m e, FVal.fin neg m e ∈ ps ∧ topExp m e = t) ∧ ∀ neg m e, FVal.fin neg m e ∈ ps → topExp m e ≤ t) ∧
  c.spec = if FVal.nan ∈ ps ∨ (FVal.inf false ∈ ps ∧ FVal.inf true ∈ ps) then 3
    else if FVal.inf false ∈ ps then 1 else if FVal.inf true ∈ ps then 2 else 0

/-- R125, R127: one chunk added to accumulator n. The exponent starts from the greatest product of an auto
accumulator, grows by 8 while the sum of two magnitudes reaches 2^47 in a normal element, and each chunk sum is
rounded once, against the last window; an element that no larger window can help becomes an infinity and keeps its
shifted mantissa, and so does one that was not normal, unshifted. -/
def AddsChunk (b : Block) (n : Nat) (cs : List Chunk) : Prop :=
  let r := applyChunk b n cs
  let top := (cs.filterMap (·.top)).max?
  let start : Int := if accAuto b n then (match top with
    | some t => max (-32768) (min (t - 40) 32767)
    | none => 0) else accExp b n
  let window := fun (j : Nat) => start + 8 * j
  let add := fun (i j : Nat) (c : Chunk) => shifted (accElem b n i).m j + roundWindow c.m c.e (window j)
  let beyond := fun (i j : Nat) (c : Chunk) =>
    2 ^ 47 ≤ (shifted (accElem b n i).m j).natAbs + (roundWindow c.m c.e (window j)).natAbs
  accExp r.1 n = window r.2 ∧ accAuto r.1 n = (accAuto b n && top.isNone) ∧
  (∀ j < r.2, window j ≤ 32759 ∧ ∃ i c, cs[i]? = some c ∧ (accElem b n i).st = 0 ∧ beyond i j c) ∧
  (∀ i c, cs[i]? = some c →
    let x := accElem b n i
    let y := accElem r.1 n i
    (x.st ≠ 0 → y = ⟨x.m, combine x.st c.spec⟩) ∧
    (x.st = 0 → ¬beyond i r.2 c → y = ⟨add i r.2 c, c.spec⟩) ∧
    (x.st = 0 → beyond i r.2 c → 32759 < window r.2 ∧
      y = ⟨shifted x.m r.2, combine (if 0 < add i r.2 c then 1 else 2) c.spec⟩)) ∧
  ∀ k i, k ≠ n → i < 1024 → accElem r.1 k i = accElem b k i ∧ accExp r.1 k = accExp b k ∧ accAuto r.1 k = accAuto b k

/-! ## What a state shows -/

/-- Two states show the same memory: every byte at home, and every mark. -/
def SameMemory (s t : State) : Prop := t.poison = s.poison ∧ ∀ a : Nat, SMap.get t.mem a = SMap.get s.mem a

/-- Two states hold the same caches, tables, registers and queues: all that lies outside threads, blocks and the model's
own bookkeeping. -/
def SameRest (s t : State) : Prop :=
  t.mem = s.mem ∧ t.poison = s.poison ∧ t.lenderMem = s.lenderMem ∧ t.cores = s.cores ∧ t.slots = s.slots ∧
  t.copies = s.copies ∧ t.releases = s.releases ∧ t.foreignWays = s.foreignWays ∧ t.bounds = s.bounds ∧
  t.xlate = s.xlate ∧ t.leaves = s.leaves ∧ t.regs = s.regs ∧ t.cadastre = s.cadastre ∧ t.borrowed = s.borrowed ∧
  t.routes = s.routes ∧ t.counters = s.counters ∧ t.notices = s.notices ∧ t.clock = s.clock ∧
  t.borrowLines = s.borrowLines ∧ t.sliceLines = s.sliceLines

/-- The loop levels, return entries and loop shadow of a thread fit their registers (R87, R89). -/
def Thread.bounded (t : Thread) : Bool := t.loops.length ≤ 4 && t.shadow.length ≤ 4 && t.stack.length ≤ 64

/-- The invariant of the loop and call registers. -/
def State.bounded (s : State) : Bool := s.threads.all Thread.bounded

/-- No core holds dirty bytes or deltas: what a drain of every core leaves (R225, R226). -/
def State.rested (s : State) : Bool :=
  s.cores.all (fun r => r.sectors.all (fun x => x.dirty == 0) && r.updates.isEmpty)

/-- R104: a result modulo 2^n, or under .SAT clamped to the type's range. -/
def wrapped (t : Ty) (sat : Bool) (x : Int) : Nat := tyEncode t (if sat then max (tyMin t) (min x (tyMax t)) else x)

/-- Memory, and what lenders keep of it, are in their canonical form. -/
def State.memWf (s : State) : Bool := Memory.wf s.mem && Memory.wf s.lenderMem

end Sys2Proof.Machine
end

