-- ==== Sys2Proof/Certificates/Slice0/Obligations.lean ====
section
/-! DEFINITION. The statements for the provers. -/

open Sys2Proof Sys2Proof.Machine

/-! ## Encoding and decoding -/

/-- R329 to R345: a thread decodes the word of every well-formed instruction to that instruction, every operand at every
value that its encoding admits. -/
def Obligations.EncodeThenDecodeThread : Prop :=
  ∀ i : Instr, i.wfThread = true → decodeThread (encode i) = .ok i

/-- R132, R425: the sequencer decodes the word of every well-formed stream word to that word. -/
def Obligations.EncodeThenDecodeStream : Prop :=
  ∀ i : Instr, i.wfStream = true → decodeStream (encode i) = .ok i

/-- The other direction: what a thread or the sequencer decodes is well formed and has no other word, so no bit of a
word is without meaning. -/
def Obligations.DecodedWordReencodes : Prop :=
  (∀ (w : IWord) (i : Instr), decodeThread w = .ok i → i.wfThread = true ∧ encode i = w) ∧
  (∀ (w : IWord) (i : Instr), decodeStream w = .ok i → i.wfStream = true ∧ encode i = w)

/-- The words that the manual works out in its examples, and one written out field by field for each of some other
forms, decode to the instructions that they stand for. A sanity statement. -/
def Obligations.WrittenWordsDecode : Prop :=
  let k : Ctl := ⟨7, 0, false, false⟩
  let g : Guard := ⟨false, 0⟩
  -- R362: ADD.I32 v5, v3, 100
  decodeThread 0x780000000500C04000000064 = .ok (.addImm ⟨k, g, .v 5, false, .v 3, 0x040, 100⟩) ∧
  -- R438: MOVI v4, 0x3FC00000
  decodeThread 0x78000202047100003FC00000 = .ok (.movi ⟨k, g, .v 4, false, .zero, 0, 0x3FC00000⟩) ∧
  -- R379: BRA +1, form C, sub-operation 0
  decodeThread (0b11#2 ++ 7#3 ++ 0#7 ++ 0#2 ++ 0#5 ++ 0#3 ++ 0#5 ++ 1#24 ++ 0#45 : BitVec 96) = .ok (.bra k g 1) ∧
  -- R342: an opcode without a row
  decodeThread (0b00#2 ++ 7#3 ++ 0#7 ++ 0#2 ++ 0#5 ++ 0xFFF#12 ++ 0#65 : BitVec 96) = .error .illegalOpcode ∧
  -- R425: MEND fetched by a thread
  decodeThread (0b00#2 ++ 0#12 ++ 0#5 ++ 0x903#12 ++ 452#9 ++ 0#1 ++ 452#9 ++ 452#9 ++ 452#9 ++ 0#28 : BitVec 96) =
    .error .role ∧
  decodeStream (0b00#2 ++ 0#12 ++ 0#5 ++ 0x903#12 ++ 452#9 ++ 0#1 ++ 452#9 ++ 452#9 ++ 452#9 ++ 0#28 : BitVec 96) =
    .ok (.mend ⟨⟨0, 0, false, false⟩, g, .zero, false, .zero, .zero, .zero, .i8, .i8, .rne, false, 0⟩)

/-! ## Reset, step, invariants -/

/-- The registers whose field tables give a reset value: THROTCFG (R195), DISPCFG (R266), LENDCFG (R295), LINKARB
(R311), ALARMCFG and ALARMSTAT (R319), MGSEM (R322), PWRCAP (R325), PODID (R22), the tables (R260, R296, R297, R313),
and nothing bound, cached or pending. That every byte of memory reads as unlisted, so as 0, is the model's choice (log
entry 2). -/
def Obligations.ResetRegisterValues : Prop :=
  let r := State.reset.regs
  r.throt.toNat = 16 * 2 ^ 24 + 2 ^ 15 + 4 * 2 ^ 10 + 8 * 2 ^ 5 + 16 ∧ r.dispCfg = 0xFFFF0000#32 ∧
  r.lendCfg.toNat = 50 * 2 ^ 48 + 50 * 2 ^ 32 + 10 * 2 ^ 16 + 5 * 2 ^ 8 + 1 ∧
  r.linkArb = 0x11#32 ∧ r.mgOwner = 0 ∧ r.mgHold = 1000 ∧ r.alarmCfg = 2 ∧ r.alarmStat = 0 ∧ r.pwrCap = 5000 ∧
  r.podSet = false ∧ r.pkgNum = 0 ∧
  State.reset.threads = [] ∧ State.reset.blocks = [] ∧ State.reset.cores = [] ∧ State.reset.copies = [] ∧
  (∀ c, (State.reset.slotEntry c).state = 0) ∧ (∀ n, State.reset.cad n = 0) ∧ (∀ n, State.reset.borrow n = 0) ∧
  (∀ n, SMap.get State.reset.windows n = 0) ∧ State.reset.mem = []

/-- The invariants hold at reset. -/
def Obligations.ResetInvariants : Prop := State.reset.memWf = true ∧ State.reset.bounded = true

/-- Every step keeps memory in its one canonical form: addresses strictly rising, no zero listed. So equal memories are
equal data whatever ran. The form is the model's (log entry 2). -/
def Obligations.EveryStepKeepsMemoryCanonical : Prop :=
  ∀ s t : State, s.memWf = true → step s = .next t → t.memWf = true

/-- R87, R89, R100: whatever runs, no thread ever holds more than four loop levels, four shadow levels or 64 return
entries. -/
def Obligations.EveryStepKeepsLoopAndCallBounds : Prop :=
  ∀ s t : State, s.bounded = true → step s = .next t → t.bounded = true

/-- A step is the next event of the agenda; else the next turn of the clock; else the end of the clock. In a quarter's
turn, the party that the quarter issues fetches the word at its PC; when that word decodes to `i` and no bank rule
(R80) holds the party, or, after such a hold, the tags that the word waits for are still arrived, the step is `exec i`
with that party acting, and then the end of the issue for the quarter's other threads. The barrier arrivals of a core's
threads are applied once its quarters have had their turns (R232). A running sequencer's turn is `exec` of the stream
word that it has fetched and decoded. A halted package loses its turns, and the events that are not among those that go
on (log entry 65); but its counters leak on, in the first clock of each microsecond (R288). That agents move in this
order is the model's choice (log entry 1); each member's own pass through the line that it fetches from is log entry
69. -/
def Obligations.StepRunsTheDecodedInstruction : Prop :=
  (∀ (s : State) (i : Instr) (r : List Instr), s.agenda = i :: r → (s.halted = false ∨ outlivesHalt i = true) →
    step s = exec i (s.setAgenda r)) ∧
  (∀ (s : State) (i : Instr) (r : List Instr), s.agenda = i :: r → s.halted = true → outlivesHalt i = false →
    step s = .next (s.setAgenda r)) ∧
  (∀ (s b f : State) (c k : Nat) (r : List Turn) (i : Instr) (slots : List Nat) (held : Bool) (w : IWord),
    s.agenda = [] → s.turns = .quarter c k :: r → s.halted = false → (s.block? c).isSome = true →
    (let a := arrivals (s.setTurns r) c k
     b = clearYields a c k (readyOf a c k)) →
    partyNow b c k (readyOf b c k) = some (slots, held) →
    let b' := b.modBlock c (fun x => { x with holds := x.holds.filter (fun h => h.1 != k) })
    let u := (slots.drop 1).foldl (fun u q => noteFetched b' u c q) f
    (∀ i m on t, (b'.thread c (slots.headD 0)).wait ≠ .cross i m on t) →
    fetchWord b' (b'.agent c) (slots.headD 0) (b'.thread c (slots.headD 0)).pc = (f, .ok w) →
    ((held = false ∧ bankHold (slots.map (b'.thread c)) i = 0) ∨
      (held = true ∧ ∀ q ∈ slots, tagsArrived (u.thread c q) (Ctl.tags i.ctl) = true)) →
    decodeThread w = .ok i →
    step s = Out.after (exec i (u.setActor (.party c slots))) (quarterDone c k i slots (readyOf b c k))) ∧
  (∀ (s u : State) (c : Nat) (r : List Turn) (i : Instr) (w : IWord),
    s.agenda = [] → s.turns = .sequencer c :: r → s.halted = false → (s.block? c).isSome = true →
    (s.block c).seq.state = .running → (s.block c).seq.waiting = none → (s.block c).seq.busy ≤ s.clock →
    (s.block c).seq.armed = none →
    fetchWord (s.setTurns r) (s.agent c) seqFetcher (s.block c).seq.spc = (u, .ok w) → decodeStream w = .ok i →
    step s = Out.after (exec i (u.setActor (.seq c))) (fun t => t.setActor .none)) ∧
  (∀ (s : State) (c : Nat) (r : List Turn), s.agenda = [] → s.turns = .barriers c :: r → s.halted = false →
    step s = .next (settleArrivals (s.setTurns r) c)) ∧
  (∀ (s : State) (x : Turn) (r : List Turn), s.agenda = [] → s.turns = x :: r → s.halted = true → x ≠ .leaks →
    step s = .next (s.setTurns r)) ∧
  (∀ (s : State) (r : List Turn), s.agenda = [] → s.turns = .leaks :: r →
    step s = .next (leaksTurn (s.setTurns r))) ∧
  (∀ s : State, s.agenda = [] → s.turns = [] → step s = .next (endClock s)) ∧
  (∀ s : State, s.halted = true → semDue s = false → (Turn.leaks ∈ (endClock s).turns ↔ (endClock s).usAcc = 0))

/-! ## Integer words (class 0) -/

/-- ADD, SUB, MUL, AND, OR, XOR, MIN, MAX of two register sources (R362, R363, R430, R443, R448, R481, R495) and the
shifts SHL, SHR, SHA (R471): the value that each thread's destination receives. Under a false guard the word only shifts
the latches (R76). -/
def Obligations.IntegerTwoSourceResults : Prop :=
  ∀ w : FForm,
    let n := w.ty.regs
    let v := tyValue w.ty
    let off := skipFixed w.d w.nwb
    let two := fun (f : Nat → Nat → Nat) =>
      putFixed w.d w.nwb n (fun s c q => (f (readSrc s c q w.a n) (readSrc s c q w.b n), 0))
    let shift := fun (f : Nat → Nat → Nat) =>
      putFixed w.d w.nwb n (fun s c q => (f (readSrc s c q w.a n) (readWord s c q w.b).toNat, 0))
    Completes (.add w) always (two fun a b => wrapped w.ty w.sat (v a + v b)) off ∧
    Completes (.sub w) always (two fun a b => wrapped w.ty w.sat (v a - v b)) off ∧
    Completes (.mul w) always (two fun a b =>
      if w.hi then tyEncode w.ty (v a * v b / 2 ^ w.ty.bits) else wrapped w.ty w.sat (v a * v b)) off ∧
    Completes (.and w) always (two fun a b => a &&& b) off ∧
    Completes (.or w) always (two fun a b => a ||| b) off ∧
    Completes (.xor w) always (two fun a b => a ^^^ b) off ∧
    Completes (.min w) always (two fun a b => if v b < v a then b else a) off ∧
    Completes (.max w) always (two fun a b => if v a < v b then b else a) off ∧
    Completes (.shl w) always (shift fun a c => if c < w.ty.bits then a * 2 ^ c % 2 ^ w.ty.bits else 0) off ∧
    Completes (.shr w) always (shift fun a c => if c < w.ty.bits then a / 2 ^ c else 0) off ∧
    Completes (.sha w) always (shift fun a c => tyEncode w.ty (v a / 2 ^ min c (w.ty.bits - 1))) off

/-- ABS, CLZ, BFI, BFX, LEA, MAD and SEL (R356, R373, R374, R387, R421, R428, R468). -/
def Obligations.IntegerOtherRegisterResults : Prop :=
  ∀ w : FForm,
    let n := w.ty.regs
    let v := tyValue w.ty
    let off := skipFixed w.d w.nwb
    let put := fun (f : State → Nat → Nat → Nat) => putFixed w.d w.nwb n (fun s c q => (f s c q, 0))
    Completes (.abs w) always (put fun s c q =>
      let y : Int := |v (readSrc s c q w.a n)|
      tyEncode w.ty (if w.sat then min y (tyMax w.ty) else y)) off ∧
    Completes (.clz w) always (putFixed w.d w.nwb 1 (fun s c q =>
      (w.ty.bits - bitLen (readSrc s c q w.a n % 2 ^ w.ty.bits), 0))) off ∧
    Completes (.bfi w) always (put fun s c q =>
      let a := readSrc s c q w.a n
      let k := (readWord s c q w.c).toNat
      let p := min (k % 256) w.ty.bits
      let m := min (k / 256 % 256) (w.ty.bits - p)
      a - a / 2 ^ p % 2 ^ m * 2 ^ p + readSrc s c q w.b n % 2 ^ m * 2 ^ p) off ∧
    Completes (.bfx w) always (put fun s c q =>
      let k := (readWord s c q w.c).toNat
      let p := min (k % 256) w.ty.bits
      let m := min (k / 256 % 256) (w.ty.bits - p)
      let x := readSrc s c q w.a n / 2 ^ p % 2 ^ m
      if m = 0 then 0
      else tyEncode w.ty (if w.ty.signed = true ∧ x.testBit (m - 1) = true then (x : Int) - 2 ^ m else x)) off ∧
    Completes (.lea w) always (putFixed w.d w.nwb 2 (fun s c q =>
      let k := (readWord s c q w.c).toNat
      let add : Int := if k < 64 then v (readSrc s c q w.b n) * 2 ^ k else 0
      ((((readSrc s c q w.a 2 : Int) + add) % (2 ^ 64 : Int)).toNat, 0))) off ∧
    Completes (.mad w) always (put fun s c q =>
      let p := v (readSrc s c q w.a n) * v (readSrc s c q w.b n) + v (readSrc s c q w.c n)
      if w.hi then tyEncode w.ty (p / 2 ^ w.ty.bits) else wrapped w.ty w.sat p) off ∧
    Completes (.sel w) always (put fun s c q =>
      if (s.thread c q).pred w.prd then readSrc s c q w.a n else readSrc s c q w.b n) off

/-- R447: `NOT.type vd, va` is form F with OPC 0x00A, with B and C 452; bit k of the result is the complement of bit k
of A. R452: `POPC.type vd, va` is form F with OPC 0x00E, with B and C 452; D is a single register and A a pair for
.N64; D receives the number of set bits in A, from 0 to n. R380: BREV is form F with OPC 0x010, D the result, A the
source, and B and C 452; D[i] is A[n − 1 − i] for i from 0 to n − 1; BREV.N32 of 0x00000001 writes 0x80000000. -/
def Obligations.BitwiseWordsOfOneSource : Prop :=
  ((∀ w : FForm, (encode (.not w)).extractLsb' 94 2 = 0#2 ∧ (encode (.not w)).extractLsb' 65 12 = 0x00A#12 ∧
    ((Instr.not w).wfThread = true → w.b = .zero ∧ w.c = .zero)) ∧
  (∀ w : FForm, Completes (.not w) always
    (putFixed w.d w.nwb w.ty.regs (fun s c q => (intNot w.ty (readSrc s c q w.a w.ty.regs), 0)))
    (skipFixed w.d w.nwb)) ∧
  (∀ (t : Ty) (a k : Nat), (intNot t a).testBit k = (decide (k < t.bits) && !a.testBit k))) ∧
  ((∀ w : FForm, (encode (.popc w)).extractLsb' 94 2 = 0#2 ∧ (encode (.popc w)).extractLsb' 65 12 = 0x00E#12 ∧
    ((Instr.popc w).wfThread = true → w.b = .zero ∧ w.c = .zero) ∧
    (w.ty = .n64 → (Instr.popc w).uses = [⟨0, w.d, 1, .dst⟩, ⟨1, w.a, 2, .src⟩])) ∧
  (∀ w : FForm, Completes (.popc w) always
    (putFixed w.d w.nwb 1 (fun s c q => (popCount w.ty.bits (readSrc s c q w.a w.ty.regs), 0)))
    (skipFixed w.d w.nwb)) ∧
  (∀ n a : Nat, popCount n a = ((List.range n).filter (fun k => a.testBit k)).length ∧ popCount n a ≤ n)) ∧
  ((∀ w : FForm, (encode (.brev w)).extractLsb' 94 2 = 0#2 ∧ (encode (.brev w)).extractLsb' 65 12 = 0x010#12 ∧
    ((Instr.brev w).wfThread = true → w.b = .zero ∧ w.c = .zero)) ∧
  (∀ w : FForm, Completes (.brev w) always
    (putFixed w.d w.nwb w.ty.regs (fun s c q => (bitReverse w.ty.bits (readSrc s c q w.a w.ty.regs), 0)))
    (skipFixed w.d w.nwb)) ∧
  (∀ n a i : Nat, i < n → (bitReverse n a).testBit i = a.testBit (n - 1 - i)) ∧
  (∀ n a : Nat, bitReverse n a < 2 ^ n) ∧ bitReverse 32 1 = 0x80000000)

/-- The form I integer words: operand B is the immediate, sign-extended for .I64 and zero-extended for .N64 (R335). -/
def Obligations.IntegerImmediateResults : Prop :=
  ∀ w : IForm,
    let n := w.ty.regs
    let v := tyValue w.ty
    let b : Nat := if w.ty = .i64 then (w.imm.signExtend 64).toNat else w.imm.toNat
    let off := skipFixed w.d w.nwb
    let put := fun (f : Nat → Nat) => putFixed w.d w.nwb n (fun s c q => (f (readSrc s c q w.a n), 0))
    Completes (.addImm w) always (put fun a => wrapped w.ty w.sat (v a + v b)) off ∧
    Completes (.subImm w) always (put fun a => wrapped w.ty w.sat (v a - v b)) off ∧
    Completes (.mulImm w) always (put fun a =>
      if w.hi then tyEncode w.ty (v a * v b / 2 ^ w.ty.bits) else wrapped w.ty w.sat (v a * v b)) off ∧
    Completes (.andImm w) always (put fun a => a &&& b) off ∧
    Completes (.orImm w) always (put fun a => a ||| b) off ∧
    Completes (.xorImm w) always (put fun a => a ^^^ b) off ∧
    Completes (.minImm w) always (put fun a => if v b < v a then b else a) off ∧
    Completes (.maxImm w) always (put fun a => if v a < v b then b else a) off ∧
    Completes (.shlImm w) always (put fun a =>
      if w.imm.toNat < w.ty.bits then a * 2 ^ w.imm.toNat % 2 ^ w.ty.bits else 0) off ∧
    Completes (.shrImm w) always (put fun a => if w.imm.toNat < w.ty.bits then a / 2 ^ w.imm.toNat else 0) off ∧
    Completes (.shaImm w) always (put fun a => tyEncode w.ty (v a / 2 ^ min w.imm.toNat (w.ty.bits - 1))) off

/-- CMP, FCMP and PLOP write a predicate and no register; k1 takes 1 or 0 (R388, R402, R451). -/
def Obligations.PredicateResults : Prop :=
  ∀ w : FForm,
    let n := w.ty.regs
    let off := skipFixed .zero false
    let p := fun (k : Nat) => (w.sub.extractLsb' k 4).toNat
    Completes (.cmp w) always (putPred w.prd (fun s c q =>
      let a := tyValue w.ty (readSrc s c q w.a n)
      let b := tyValue w.ty (readSrc s c q w.b n)
      if w.cond = 0 then a = b else if w.cond = 1 then a ≠ b else if w.cond = 2 then a < b
      else if w.cond = 3 then a ≤ b else if w.cond = 4 then b < a else b ≤ a)) off ∧
    Completes (.fcmp w) always (putPred w.prd (fun s c q =>
      fCond w.cond (readFloat s c q w.ty w.a) (readFloat s c q w.ty w.b))) off ∧
    Completes (.plop w) always (putPred (p 8) (fun s c q =>
      w.ty2.code.getLsbD (2 * b2n ((s.thread c q).pred (p 4)) + b2n ((s.thread c q).pred (p 0))))) off

/-! ## Floating point (classes 2 and 3) -/

/-- The fixed-latency floating-point words: the value and the flags that each destination receives (R400, R401, R403,
R408, R410, R411, R412), with operands decoded in the format of TY and rounded in RM. What is rounded is the exact
sum, product, or product and sum of the operands, once (R115, R118, R119): the result is the value of the format that
the mode picks, NX says that it differs from the exact one, and beyond the largest finite value the mode decides
between that value and infinity. A NaN operand gives the canonical NaN and no flag, an invalid operation the canonical
NaN and IV, any other on an infinity an infinity (R116, R117). A conversion rounds its source in the same way, to an
integer clamped to the type's range, with IV where it is (R121, R122); that one between F16 and BF16 rounds too is log
entry 57 (DESIGN CHOICE). A conversion of a value above the largest finite one by more than half a step sets OF and NX
in every mode, also where it delivers that value: read from R121's example, log entry 89 (DEDUCED). -/
def Obligations.FloatResults : Prop :=
  (∀ w : FForm,
    let f := fmtOf w.ty
    let x := fun (s : State) (c q : Nat) (o : Opnd) => readFloat s c q w.ty o
    let k := fun (s : State) (c q : Nat) (o : Opnd) => readCode s c q w.ty o
    let off := skipFixed w.d w.nwb
    let put := putFixed w.d w.nwb 1
    Completes (.fadd w) always (put fun s c q => fAdd f w.rm (x s c q w.a) (x s c q w.b)) off ∧
    Completes (.fmul w) always (put fun s c q => fMul f w.rm (x s c q w.a) (x s c q w.b)) off ∧
    Completes (.ffma w) always (put fun s c q => fFma f w.rm (x s c q w.a) (x s c q w.b) (x s c q w.c)) off ∧
    Completes (.fmin w) always (put fun s c q => (fMin f (k s c q w.a) (k s c q w.b), 0)) off ∧
    Completes (.fmax w) always (put fun s c q => (fMax f (k s c q w.a) (k s c q w.b), 0)) off ∧
    Completes (.fclass w) always (put fun s c q => (fClass f (k s c q w.a), 0)) off ∧
    Completes (.frnd w) always (put fun s c q => (fRound f w.rm (k s c q w.a), 0)) off ∧
    Completes (.fcvt w) always (putFixed w.d w.nwb w.ty.regs fun s c q =>
      convert w.ty w.ty2 w.rm w.sat (readSrc s c q w.a w.ty2.regs)) off) ∧
  (∀ w : IForm,
    let a := fun (s : State) (c q : Nat) => readFloat s c q .f32 w.a
    let b := fmtF32.decode w.imm.toNat
    let off := skipFixed w.d w.nwb
    let put := putFixed w.d w.nwb 1
    Completes (.faddImm w) always (put fun s c q => fAdd fmtF32 w.rm (a s c q) b) off ∧
    Completes (.fmulImm w) always (put fun s c q => fMul fmtF32 w.rm (a s c q) b) off ∧
    Completes (.fminImm w) always (put fun s c q => (fMin fmtF32 (readCode s c q .f32 w.a) w.imm.toNat, 0)) off ∧
    Completes (.fmaxImm w) always (put fun s c q => (fMax fmtF32 (readCode s c q .f32 w.a) w.imm.toNat, 0)) off) ∧
  (∀ f ∈ [fmtF32, fmtF16, fmtBF16], ∀ (rm : Rnd) (i j k : Nat),
    let a := f.decode i
    let b := f.decode j
    let d := f.decode k
    let prod : Int × Int := (a.exact.1 * b.exact.1, a.exact.2 + b.exact.2)
    let sum := fun (x y : Int × Int) => sumAt x.1 x.2 y.1 y.2
    (a.finite = true → b.finite = true →
      Delivers f rm (sum a.exact b.exact) (fAdd f rm a b) ∧ Delivers f rm prod (fMul f rm a b) ∧
      (d.finite = true → Delivers f rm (sum prod d.exact) (fFma f rm a b d)) ∧
      (a.exact.1 ≠ 0 → (sum a.exact b.exact).1 = 0 → (fAdd f rm a b).1 = f.signBit (rm == .rd))) ∧
    (a.isNan = true ∨ b.isNan = true → fAdd f rm a b = (f.qnan, 0) ∧ fMul f rm a b = (f.qnan, 0)) ∧
    (∀ s t : Bool, a = .inf s → b = .inf t → s ≠ t → fAdd f rm a b = (f.qnan, Flags.iv)) ∧
    (∀ s t : Bool, (a = .inf s ∧ b = .zero t) ∨ (a = .zero t ∧ b = .inf s) →
      fMul f rm a b = (f.qnan, Flags.iv) ∧ fFma f rm a b d = (f.qnan, Flags.iv)) ∧
    (∀ s : Bool, a = .inf s → b.finite = true ∨ b = .inf s →
      fAdd f rm a b = (f.infinity s, 0) ∧ fAdd f rm b a = (f.infinity s, 0)) ∧
    (∀ (s t : Bool) (m : Nat) (e : Int), a = .inf s → b = .inf t ∨ b = .fin t m e →
      fMul f rm a b = (f.infinity (s != t), 0) ∧ fMul f rm b a = (f.infinity (t != s), 0))) ∧
  (∀ dty ∈ [Ty.f32, .f16, .bf16], ∀ sty ∈ [Ty.f32, .f16, .bf16, .e4m3, .e5m2], ∀ (rm : Rnd) (v : Nat),
    let a := (fmtOf sty).decode (v % 2 ^ (fmtOf sty).width)
    a.finite = true → Delivers (fmtOf dty) rm a.exact (convert dty sty rm false v)) ∧
  (∀ dty ∈ [Ty.f16, .bf16, .e4m3, .e5m2, .e2m1], ∀ sty ∈ [Ty.f32, .f16, .bf16, .e4m3, .e5m2, .e2m1],
    ∀ (rm : Rnd) (sat : Bool) (v : Nat),
    let a := (fmtOf sty).decode (v % 2 ^ (fmtOf sty).width)
    let top := ((fmtOf dty).decode ((fmtOf dty).largest false)).exact
    let r := convert dty sty rm sat v
    a.finite = true → ¬atMost (absOf a.exact) (2 * top.1 + 1, top.2 - 1) →
      r.2 = Flags.of ||| Flags.nx ∧ (rm = .rz → r.1 = (fmtOf dty).largest (decide (a.exact.1 < 0)))) ∧
  (∀ dty ∈ [Ty.f32, .f16, .bf16], ∀ sty : Ty, sty.isInt = true → ∀ (rm : Rnd) (v : Nat),
    Delivers (fmtOf dty) rm (tyValue sty v, 0) (convert dty sty rm false v)) ∧
  (∀ dty : Ty, dty.isInt = true → ∀ sty ∈ [Ty.f32, .f16, .bf16], ∀ (rm : Rnd) (v : Nat),
    let a := (fmtOf sty).decode (v % 2 ^ (fmtOf sty).width)
    a.finite = true → ∃ r : Int,
      convert dty sty rm false v = (tyEncode dty (max (tyMin dty) (min r (tyMax dty))),
        if r < tyMin dty ∨ tyMax dty < r then Flags.iv else if (diffOf (r, 0) a.exact).1 ≠ 0 then Flags.nx else 0) ∧
      let below := atMost (r, 0) a.exact ∧ ¬atMost (r + 1, 0) a.exact
      let above := atMost a.exact (r, 0) ∧ ¬atMost a.exact (r - 1, 0)
      match rm with
      | .rd => below
      | .ru => above
      | .rz => (0 ≤ a.exact.1 → below) ∧ (a.exact.1 ≤ 0 → above)
      | .rne => atMost (absOf (diffOf a.exact (r, 0))) (1, -1) ∧
          (atMost (1, -1) (absOf (diffOf a.exact (r, 0))) → r % 2 = 0))

/-- R128, R405, R458, R475: FDIV and the class 3 words take F32 operands; the result and its flags wait under the word's
tag; RCP is the quotient of 1 by its operand. The quotient, the root and the reciprocal root of finite operands are
the exact ones rounded once, with the flags of R119. The other cases (R116, R117): a NaN gives the canonical NaN and no
flag; 0 ÷ 0, ∞ ÷ ∞ and the roots of a value below −0 the canonical NaN with IV; a finite nonzero value by ±0, and RSQ
of ±0, ±∞ with DZ; ∞ by a finite value ∞, a finite value by ∞ zero, of the sign that the operands give; SQRT keeps ±0
and +∞, and RSQ of +∞ is +0. -/
def Obligations.SpecialFunctionResults : Prop :=
  (∀ w : FForm,
    let x := fun (s : State) (c q : Nat) (o : Opnd) => readFloat s c q .f32 o
    let off := skipTag w.ctl w.d 1
    let put := putTag w.ctl w.d 1
    Completes (.fdiv w) always (put fun s c q => fDiv fmtF32 w.rm (x s c q w.a) (x s c q w.b)) off ∧
    Completes (.rcp w) always (put fun s c q => fDiv fmtF32 w.rm (.fin false 1 0) (x s c q w.a)) off ∧
    Completes (.rsq w) always (put fun s c q => fRsq fmtF32 w.rm (x s c q w.a)) off ∧
    Completes (.sqrt w) always (put fun s c q => fSqrt fmtF32 w.rm (x s c q w.a)) off ∧
    Completes (.ex2 w) always (put fun s c q => fEx2 (x s c q w.a)) off ∧
    Completes (.lg2 w) always (put fun s c q => fLg2 (x s c q w.a)) off ∧
    Completes (.sin w) always (put fun s c q => fSin (x s c q w.a)) off ∧
    Completes (.cos w) always (put fun s c q => fCos (x s c q w.a)) off ∧
    Completes (.tanh w) always (put fun s c q => fTanh (x s c q w.a)) off) ∧
  (∀ (rm : Rnd) (i j : Nat),
    let f := fmtF32
    let a := f.decode i
    let b := f.decode j
    let x := a.exact
    let y := b.exact
    let one : Int × Int := (1, 0)
    let prod := fun (u v : Int × Int) => ((u.1 * v.1, u.2 + v.2) : Int × Int)
    let sg := fun (u : Nat) => decide (2 ^ 31 ≤ u % 2 ^ 32)
    let neg := sg i != sg j
    (a.finite = true → b.finite = true → x.1 ≠ 0 → y.1 ≠ 0 →
      let side : Int × Int := (if y.1 < 0 then -1 else 1, 0)
      DeliversBetween f rm neg (fun w => atMost (prod side (prod w y)) (prod side x))
        (fun w => atMost (prod side x) (prod side (prod w y))) (fDiv f rm a b)) ∧
    (a.finite = true → 0 < x.1 →
      DeliversBetween f rm false (fun w => w.1 < 0 ∨ atMost (prod w w) x)
        (fun w => 0 ≤ w.1 ∧ atMost x (prod w w)) (fSqrt f rm a) ∧
      DeliversBetween f rm false (fun w => w.1 < 0 ∨ atMost (prod x (prod w w)) one)
        (fun w => 0 ≤ w.1 ∧ atMost one (prod x (prod w w))) (fRsq f rm a)) ∧
    (a.isNan = true → fDiv f rm a b = (f.qnan, 0) ∧ fDiv f rm b a = (f.qnan, 0) ∧ fSqrt f rm a = (f.qnan, 0) ∧
      fRsq f rm a = (f.qnan, 0)) ∧
    (∀ s t : Bool, (a = .zero s ∧ b = .zero t) ∨ (a = .inf s ∧ b = .inf t) → fDiv f rm a b = (f.qnan, Flags.iv)) ∧
    (∀ t : Bool, a.finite = true → x.1 ≠ 0 → b = .zero t → fDiv f rm a b = (f.infinity neg, Flags.dz)) ∧
    (∀ s : Bool, a = .inf s → b.finite = true → fDiv f rm a b = (f.infinity neg, 0) ∧
      fDiv f rm b a = (f.signBit neg, 0)) ∧
    (∀ s : Bool, a = .zero s → b.finite = true → y.1 ≠ 0 → fDiv f rm a b = (f.signBit neg, 0)) ∧
    (a = .inf true ∨ (a.finite = true ∧ x.1 < 0) → fSqrt f rm a = (f.qnan, Flags.iv) ∧
      fRsq f rm a = (f.qnan, Flags.iv)) ∧
    (∀ s : Bool, a = .zero s → fSqrt f rm a = (f.signBit s, 0) ∧ fRsq f rm a = (f.infinity s, Flags.dz)) ∧
    (a = .inf false → fSqrt f rm a = (f.infinity false, 0) ∧ fRsq f rm a = (0, 0)))

/-- R398, R410: FMIN and FMAX of two numbers of a format, F32, F16 or BF16, deliver one of their operands' codes; in the
order that puts −0 below +0, FMIN is never above either of them and FMAX never below. With one NaN the other operand is
delivered, with two the canonical NaN. -/
def Obligations.FloatMinDeliversALowerOperand : Prop :=
  ∀ x ∈ [(Ty.f32, 32, 0x7FC00000), (.f16, 16, 0x7E00), (.bf16, 16, 0x7FC0)], ∀ a b : Nat,
    let f := fmtOf x.1
    let nan := fun (n : Nat) => (f.decode n).isNan
    a < 2 ^ x.2.1 → b < 2 ^ x.2.1 →
    (nan a = false → nan b = false →
      (fMin f a b = a ∨ fMin f a b = b) ∧
      fLess (f.decode a) (f.decode (fMin f a b)) = false ∧ fLess (f.decode b) (f.decode (fMin f a b)) = false ∧
      (fMax f a b = a ∨ fMax f a b = b) ∧
      fLess (f.decode (fMax f a b)) (f.decode a) = false ∧ fLess (f.decode (fMax f a b)) (f.decode b) = false) ∧
    (nan a = true → nan b = false → fMin f a b = b ∧ fMax f a b = b) ∧
    (nan a = false → nan b = true → fMin f a b = a ∧ fMax f a b = a) ∧
    (nan a = true → nan b = true → fMin f a b = x.2.2 ∧ fMax f a b = x.2.2)

/-! ## Moves, pairs and system registers (class 1, form P) -/

/-- MOV, MOVI, MOVX, MOVXW and NOP (R437 to R440, R446). MOVX and MOVXW complete where the computed name lies below
the limit of the thread's role; MOVX also needs that the register is not struck (R286). That MOVXW under a false guard
shifts the latch of its base D, whose index is then not computed, is log entry 21 (DEDUCED). -/
def Obligations.MoveResults : Prop :=
  (∀ w : FForm,
    Completes (.mov w) always (putFixed w.d w.nwb w.ty.regs (fun s c q => (readSrc s c q w.a w.ty.regs, 0)))
      (skipFixed w.d w.nwb) ∧
    Completes (.movx w)
      (fun s c q =>
        let n : Int := w.a.code.toNat + (readWord s c q w.b).toInt
        0 ≤ n && n < ((s.block c).limitOf (s.thread c q).role : Int) &&
          !(s.thread c q).regPoison.contains (rotateName (s.thread c q).loops n.toNat))
      (putFixed w.d w.nwb 1 (fun s c q =>
        (((s.thread c q).readV (w.a.code.toNat + (readWord s c q w.b).toInt).toNat).toNat, 0)))
      (skipFixed w.d w.nwb) ∧
    Completes (.movxw w)
      (fun s c q =>
        let n : Int := w.d.code.toNat + (readWord s c q w.b).toInt
        0 ≤ n && n < ((s.block c).limitOf (s.thread c q).role : Int))
      (thenNext fun s c q =>
        let p := rotateName (s.thread c q).loops (w.d.code.toNat + (readWord s c q w.b).toInt).toNat
        let v := readWord s c q w.a
        s.modThread c q (fun t => { t with
          regs := SMap.set t.regs p v, regPoison := t.regPoison.filter (· != p) }.pushLatch ⟨v, some p, true⟩))
      (skipFixed w.d false) ∧
    Completes (.nop w) always (skipFixed .zero false) (skipFixed .zero false)) ∧
  (∀ w : IForm,
    Completes (.movi w) always (putFixed w.d w.nwb 1 (fun _ _ _ => (w.imm.toNat, 0))) (skipFixed w.d w.nwb))

/-- R394: ELECT gives every acting thread the number of the lowest acting slot, and its predicate is true in that thread
alone. -/
def Obligations.ElectNamesTheLowestActingSlot : Prop :=
  ∀ (w : FForm) (s : State) (c : Nat) (slots : List Nat), s.actor = .party c slots →
    let on : Effect := thenNext fun s' c q =>
      let e := (actingSlots (.elect w) s).headD q
      writePred (fixedResult s' c q w.d w.nwb 1 e 0) c q w.prd (q == e)
    partyOk (.elect w) always on (skipFixed w.d w.nwb) c s slots = true →
    exec (.elect w) s = .next (slots.foldl (memberState (.elect w) on (skipFixed w.d w.nwb) c) s)

/-- R337, R338: both halves of a pair read before either writes; each half whose guard is true writes its destination,
and each shifts the latches, X first. -/
def Obligations.PairWritesBothHalves : Prop :=
  ∀ (k : Ctl) (x y : PHalf),
    Completes (.pair k x y) always
      (thenNext fun s c q =>
        let value := fun (h : PHalf) => pairValue h.op (readWord s c q h.a) (readWord s c q h.b) (readWord s c q h.d)
        let write := fun (s' : State) (h : PHalf) =>
          if (s.thread c q).pred h.g.toNat then fixedResult s' c q h.d h.nwb 1 (value h).1 (value h).2
          else fixedSkip s' c q h.d h.nwb
        write (write s x) y)
      justNext

/-- R82, R476, R497: SRD delivers the register's value under its tag; SWR writes by the register's own rule. A write of
TST changes its five flags and nothing else, so no thread can set or clear INTRAP by it; TCAUSE keeps its reserved bits
zero; TADDR and TPC take all 64 bits; reading the register afterwards gives what was written. LCNTm of a live level
takes the value, and the level's next end-word evaluation goes by it; that of a level that is not live ignores it and
reads as zero (R89, R99). A write of TVEC is seen by the writing thread at once and by the others of the block from the
fourth clock on; of two writes the later counts, of one clock that of the higher quarter, of one party that of the
lowest slot (R67, R81). The read-only registers: LBASEm, LENDm and LROTm of a live level, zero of any other (R89, R90);
COREPOS (R12, R13), PKGINFO (R21), RECTPOS (R55), SAVEBASE (R83) and ROLEINFO of the block's row for the thread's role.
-/
def Obligations.SystemRegisterAccess : Prop :=
  (∀ w : FForm,
    Completes (.srd w) always
      (putTag w.ctl w.d (sysRegRegs w.subN) (fun s c q => (readSys s c q w.subN, 0)))
      (skipTag w.ctl w.d (sysRegRegs w.subN)) ∧
    Completes (.swr w) always
      (thenNext fun s c q => writeSys s c q w.subN (readSrc s c q w.a (sysRegRegs w.subN))) justNext) ∧
  (∀ (s : State) (c q v : Nat), (s.thread? c q).isSome = true →
    let t := s.thread c q
    let u := fun n => (writeSys s c q n v).thread c q
    u 0x000 = { t with tst := (t.tst &&& ~~~0x1F#32) ||| (BitVec.ofNat 32 v &&& 0x1F#32) } ∧
    ((u 0x000).inTrap = t.inTrap) ∧
    u 0x001 = { t with tcause := BitVec.ofNat 32 v &&& 0x00FF0FFF#32 } ∧
    readSys (writeSys s c q 0x001 v) c q 0x001 = (BitVec.ofNat 32 v &&& 0x00FF0FFF#32).toNat ∧
    readSys (writeSys s c q 0x002 v) c q 0x002 = v % 2 ^ 64 ∧
    readSys (writeSys s c q 0x003 v) c q 0x003 = v % 2 ^ 64 ∧
    ∀ m : Nat, m < 4 →
      (t.loops.length ≤ m → u (0x010 + m) = t ∧ readSys (writeSys s c q (0x010 + m) v) c q (0x010 + m) = 0) ∧
      ∀ l : LoopLevel, t.loops[m]? = some l →
        let l' := { l with cnt := BitVec.ofNat 32 v }
        let t' := u (0x010 + m)
        t' = { t with loops := t.loops.set m l' } ∧
        readSys (writeSys s c q (0x010 + m) v) c q (0x010 + m) = v % 2 ^ 32 ∧
        (t.innermost = some m → l.last = t.pc →
          endWord 5 t' = if 1 < v % 2 ^ 32 then (backEdge t' m l', l.base) else endWord 4 (t'.popLevel m))) ∧
  (∀ (s : State) (c q v : Nat), (s.block? c).isSome = true →
    let b := s.block c
    let u := (writeSys s c q 0x004 v).block c
    u = { b with tvecPend := b.tvecPend ++ [⟨BitVec.ofNat 64 v, s.clock, quarterOf q, q⟩] } ∧
    (b.tvecPend = [] → readSys (writeSys s c q 0x004 v) c q 0x004 = v % 2 ^ 64 ∧
      ∀ now r : Nat, r ≠ q → u.tvecAt now r = if s.clock + 4 ≤ now then BitVec.ofNat 64 v else b.tvec)) ∧
  (∀ (b : Block) (w x : RegWrite) (now r : Nat), b.tvecPend = [w, x] ∨ b.tvecPend = [x, w] →
    w.clock + 4 ≤ now → x.clock + 4 ≤ now → (x.clock < w.clock ∨ (x.clock = w.clock ∧
      (x.quarter < w.quarter ∨ (x.quarter = w.quarter ∧ w.slot < x.slot)))) → b.tvecAt now r = w.value) ∧
  (∀ (s : State) (c q : Nat),
    let t := s.thread c q
    let b := s.block c
    let rd := readSys s c q
    let x := c % 24
    let y := c / 24
    let sheet := y / 8 * 4 + x / 6
    (∀ m : Nat, m < 4 → t.loops.length ≤ m → rd (0x014 + m) = 0 ∧ rd (0x018 + m) = 0 ∧ rd (0x01C + m) = 0) ∧
    (∀ (m : Nat) (l : LoopLevel), m < 4 → t.loops[m]? = some l →
      rd (0x014 + m) = l.base.toNat ∧ rd (0x018 + m) = l.last.toNat ∧
      rd (0x01C + m) = l.susp.toNat * 2 ^ 31 + l.stgm1.toNat * 2 ^ 28 + l.wbase.toNat * 2 ^ 22 +
        l.wsize.toNat * 2 ^ 17 + l.rrb.toNat) ∧
    (c < 384 → rd 0x040 = x * 2 ^ 16 + y * 2 ^ 12 + (2 * sheet + y / 4 % 2) * 2 ^ 8 + sheet * 2 ^ 5 +
      (y % 4 * 6 + x % 6)) ∧
    rd 0x041 = s.regs.pkgNum.toNat * 2 ^ 22 + Config.lp6.toNat * 2 ^ 21 + s.regs.upEn.toNat * 2 ^ 20 +
      s.regs.upPort.toNat * 2 ^ 18 ∧
    (b.w ≤ 24 → b.h ≤ 16 → b.bx < 24 → b.bY < 16 →
      rd 0x042 = b.w * 2 ^ 24 + b.h * 2 ^ 16 + b.bx * 2 ^ 8 + b.bY) ∧
    rd 0x043 = b.saveBase.toNat ∧
    (∀ r : RoleRow, b.roles.find? (fun r => r.role == t.role) = some r → r.adiv8 ≤ 48 → r.limit ≤ 384 →
      rd 0x044 = (match t.role with
        | .gen => 0
        | .copy => 1
        | .feed => 2
        | .epi => 3) * 2 ^ 16 + r.adiv8 * 2 ^ 9 + r.limit))

/-! ## What a result does to a thread's registers -/

/-- R65, R67, R69 to R76, R78, R95, R120: what results do to registers. A fixed-latency result goes at once into the
vector registers of its destination at their rotated places, 32 bits into each, and no other register changes; code
452 and NWB write none; flags are only ever added; k1 takes the result, and the three latches before it move up. A
write of a uniform register is seen by its own thread at once and by the others of the block from the fourth clock on;
of two writes the later clock wins, then the higher quarter, then the lower slot. A word commits the tags of its WAIT
mask and its own. Their results commit oldest first, each into the registers that were fixed at issue, whatever has
been written there since, adds its flags to TST and sets its predicate; an empty, poisoned or lost result writes
nothing; the other tags stay. -/
def Obligations.ResultReachesOneRegister : Prop :=
  ∀ (s : State) (c q v : Nat) (f : Flags), (s.thread? c q).isSome = true → SMap.wf (s.thread c q).regs = true →
    let t := s.thread c q
    (∀ n : Fin 384, let u := (fixedResult s c q (.v n) false 1 v f).thread c q
      SMap.get u.regs (rotateName t.loops n.val) = BitVec.ofNat 32 v ∧
      (∀ r, r ≠ rotateName t.loops n.val → SMap.get u.regs r = SMap.get t.regs r) ∧
      u.tst = t.tst ||| f.setWidth 32 ∧ u.preds = t.preds ∧ u.loops = t.loops ∧ u.pc = t.pc ∧
      u.latches = ((⟨BitVec.ofNat 32 v, some (rotateName t.loops n.val), true⟩ : Latch) :: t.latches).take 4) ∧
    (∀ n : Fin 384, ((fixedResult s c q (.v n) true 1 v f).thread c q).regs = t.regs) ∧
    ((fixedResult s c q .zero false 1 v f).thread c q).regs = t.regs ∧
    (∀ (n : Fin 384) (k : Nat),
      let place := fun (i : Nat) => rotateName t.loops (n.val + i)
      let u := (fixedResult s c q (.v n) false k v f).thread c q
      ((List.range k).map place).Nodup →
      (∀ i, i < k → SMap.get u.regs (place i) = BitVec.ofNat 32 (v / 2 ^ (32 * i))) ∧
      ∀ r, (∀ i, i < k → r ≠ place i) → SMap.get u.regs r = SMap.get t.regs r) ∧
    (∀ (d : Opnd) (nwb : Bool) (k : Nat), ((fixedResult s c q d nwb k v f).thread c q).pend = t.pend) ∧
    (∀ (n : Fin 64) (k : Nat), (s.block? c).isSome = true →
      let b := s.block c
      let u := fixedResult s c q (.s n) false k v f
      (u.thread c q).regs = t.regs ∧ (u.thread c q).latches = t.latches ∧
      (u.block c).uniPend = b.uniPend ++ (List.range k).map (fun i =>
        (⟨n.val + i, BitVec.ofNat 32 (v / 2 ^ (32 * i)), s.clock, quarterOf q, q⟩ : UniWrite)) ∧ (u.block c).uni = b.uni ∧
      ((∀ x ∈ b.uniPend, x.reg < n.val ∨ n.val + k ≤ x.reg) → ∀ i, i < k →
        let new := BitVec.ofNat 32 (v / 2 ^ (32 * i))
        (u.block c).uniRead s.clock q (n.val + i) = new ∧
        ∀ now r : Nat, r ≠ q → (u.block c).uniRead now r (n.val + i) =
          if s.clock + 4 ≤ now then new else SMap.get b.uni (n.val + i))) ∧
    (∀ (b : Block) (w x : UniWrite) (now r : Nat), b.uniPend = [w, x] ∨ b.uniPend = [x, w] → w.reg = x.reg →
      w.clock + 4 ≤ now → x.clock + 4 ≤ now → (x.clock < w.clock ∨ (x.clock = w.clock ∧
        (x.quarter < w.quarter ∨ (x.quarter = w.quarter ∧ w.slot < x.slot)))) → b.uniRead now r w.reg = w.value) ∧
    (∀ (k : Ctl) (n : Nat), n ∈ Ctl.tags k ↔ n < 7 ∧ (k.wait.getLsbD n = true ∨ k.alloc.toNat = n)) ∧
    (∀ tags : List Nat,
      let due := t.pend.filter (fun p => tags.contains p.tag)
      let good := due.filter (fun p => p.poison.isNone && p.lost.isNone)
      let writes := good.flatMap (·.dst)
      let r := commitTags s c q tags
      let u := r.1.thread c q
      (∀ n, SMap.get u.regs n =
        ((writes.reverse.find? (fun d => d.1 == .v n)).map (·.2)).getD (SMap.get t.regs n)) ∧
      ((s.block? c).isSome = true → (r.1.block c).uniPend = (s.block c).uniPend ++ writes.filterMap (fun d =>
        match d.1 with
        | .s n => some (⟨n, d.2, s.clock, quarterOf q, q⟩ : UniWrite)
        | .v _ => none)) ∧
      u.tst = good.foldl (fun x p => x ||| p.flags.setWidth 32) t.tst ∧
      u.preds = (good.foldl (fun (x : Thread) p => match p.pred with
        | some y => x.setPred y.1 y.2
        | none => x) t).preds ∧
      u.pend = t.pend.filter (fun p => !tags.contains p.tag) ∧
      u.latches = t.latches ∧ u.loops = t.loops ∧ u.stack = t.stack ∧ u.pc = t.pc ∧
      r.2 = due.find? (fun p => p.poison.isSome || p.lost.isSome) ∧ r.1.mem = s.mem)

/-- R77: a read of kn returns the result of the thread's n-th most recent shifting instruction, even if the register
that the instruction wrote has since been written or committed over; an invalid latch, the register of its producer
(R79). What every other source delivers (R65, R67, R69, R94): a vector register at its rotated place, a uniform one as
its thread sees it in this clock, the home lane, the slot number, zero; of a group, register i in bits
[32i + 31 : 32i], each name rotated on its own; of a floating-point source, the low bits in its format. -/
def Obligations.LatchKeepsTheNthMostRecentResult : Prop :=
  (∀ (s : State) (c q : Nat),
    let t := s.thread c q
    let vec := fun (n : Nat) => SMap.get t.regs (rotateName t.loops n)
    let uni := fun (n : Nat) => (s.block c).uniRead s.clock q n
    (∀ n : Fin 384, readWord s c q (.v n) = vec n.val) ∧ (∀ n : Fin 64, readWord s c q (.s n) = uni n.val) ∧
    (∀ (n : Fin 4) (l : Latch), t.latches[n.val]? = some l →
      (l.valid = true → readWord s c q (.k n) = l.value) ∧
      (l.valid = false → ∀ r, l.src = some r → readWord s c q (.k n) = SMap.get t.regs r)) ∧
    readWord s c q .lane = BitVec.ofNat 32 (q % 32) ∧ readWord s c q .slot = BitVec.ofNat 32 q ∧
    (∀ n : Nat, readSrc s c q .zero n = 0) ∧
    (∀ (k : Fin 384) (n i : Nat), i < n → readSrc s c q (.v k) n / 2 ^ (32 * i) % 2 ^ 32 = (vec (k.val + i)).toNat) ∧
    (∀ (k : Fin 64) (n i : Nat), i < n → readSrc s c q (.s k) n / 2 ^ (32 * i) % 2 ^ 32 = (uni (k.val + i)).toNat) ∧
    ∀ o : Opnd, readSrc s c q o 1 = (readWord s c q o).toNat ∧ (∀ n : Nat, readSrc s c q o n < 2 ^ (32 * n)) ∧
      (readPair s c q o).toNat = readSrc s c q o 2 ∧
      ∀ ty : Ty, readCode s c q ty o = (readWord s c q o).toNat % 2 ^ (fmtOf ty).width ∧
        readFloat s c q ty o = (fmtOf ty).decode (readCode s c q ty o)) ∧
  ∀ (t : Thread) (a b c d : Latch), a.valid = true → b.valid = true → c.valid = true → d.valid = true →
    let u := (((t.pushLatch d).pushLatch c).pushLatch b).pushLatch a
    (u.latch 0 = some a.value ∧ u.latch 1 = some b.value ∧ u.latch 2 = some c.value ∧ u.latch 3 = some d.value) ∧
    ∀ m : SMap 32, ({ u with regs := m } : Thread).latch 0 = some a.value ∧
      ({ u with regs := m } : Thread).latch 1 = some b.value ∧
      ({ u with regs := m } : Thread).latch 2 = some c.value ∧ ({ u with regs := m } : Thread).latch 3 = some d.value

/-- R68: p0 reads true in every thread, and a write of it changes nothing; a write of any other predicate is what the
next read of it gives, and leaves the others alone. -/
def Obligations.PredicateZeroIsTrue : Prop :=
  ∀ (t : Thread) (n m : Nat) (b : Bool),
    t.pred 0 = true ∧ t.setPred 0 b = t ∧
    (0 < n → n < 16 → (t.setPred n b).pred n = b) ∧ (m ≠ n → m < 16 → n < 16 → (t.setPred n b).pred m = t.pred m)

/-- R94: the name v n inside the window of base b and size z of the first level that holds it stands for register
b + ((n − b + RRB) mod z), and a name outside all windows for itself; so rotation keeps every window: such a name
stands for a register of its window, and two names of one window for two registers. -/
def Obligations.RotationPermutesItsWindow : Prop :=
  ∀ (ls : List LoopLevel) (l : LoopLevel) (a b : Nat),
    (ls.find? (fun l => l.windowHolds a) = none → rotateName ls a = a) ∧
    (ls.find? (fun l => l.windowHolds a) = some l →
      let base := 8 * l.wbase.toNat
      rotateName ls a = base + (a - base + l.rrb.toNat) % (8 * l.wsize.toNat) ∧
      l.windowHolds (rotateName ls a) = true) ∧
    (∀ l : LoopLevel, l.windowHolds a = true ↔ l.susp = false ∧
      8 * l.wbase.toNat ≤ a ∧ a < 8 * l.wbase.toNat + 8 * l.wsize.toNat) ∧
    (ls.find? (fun l => l.windowHolds a) = some l → ls.find? (fun l => l.windowHolds b) = some l →
      rotateName ls a = rotateName ls b → a = b)

/-! ## Control flow -/

/-- BRA, BRM and BRX (R97, R379, R382, R383): the thread continues at the target, and the levels whose bodies exclude it
pop; BRM takes its first pair whose guard is true and otherwise goes on. -/
def Obligations.BranchResults : Prop :=
  (∀ (k : Ctl) (g : Guard) (off : BitVec 24),
    Completes (.bra k g off) always (fun s c q => branchTo s c q ((s.thread c q).pc + off.signExtend 64)) justNext) ∧
  (∀ (k : Ctl) (pairs : List (Guard × BitVec 13)),
    Completes (.brm k pairs) always
      (fun s c q => match pairs.find? (fun p => Guard.holds p.1 (s.thread c q)) with
        | some p => branchTo s c q ((s.thread c q).pc + p.2.signExtend 64)
        | none => completeWord s c q) justNext) ∧
  (∀ w : FForm, Completes (.brx w) always (fun s c q => branchTo s c q (readPair s c q w.a)) justNext)

/-- R97: after a branch the thread stands at the target; the innermost active level that is left, if any, contains it;
levels only pop, from the innermost on; and a branch inside the innermost active body pops none. -/
def Obligations.BranchPopsTheLevelsItLeaves : Prop :=
  ∀ (t : Thread) (target : DWord), t.loops.length ≤ 4 →
    let u : Thread := { popOutside 5 t target with pc := target }
    (∀ i l, u.innermost = some i → u.loops[i]? = some l →
      l.base.toNat ≤ target.toNat ∧ target.toNat ≤ l.last.toNat) ∧
    u.loops = t.loops.take u.loops.length ∧
    (∀ i l, t.innermost = some i → t.loops[i]? = some l → l.base.toNat ≤ target.toNat → target.toNat ≤ l.last.toNat →
      u.loops = t.loops) ∧
    u.regs = t.regs ∧ u.preds = t.preds ∧ u.stack = t.stack

/-- CALL, CALLX and RET, and the end of a thread by EXIT or by RET with an empty stack (R87, R100, R384, R385, R397,
R462). Entries older than the sixteen newest are in the slot's record at 0x700: a CALL spills the one that leaves them,
a RET reads back the one that comes among them. A CALL at depth 64 discards entry 0, every other entry shifts down, and
the 48 that are then not among the newest are written at their new places. -/
def Obligations.CallReturnAndExitResults : Prop :=
  (∀ (k : Ctl) (g : Guard) (off : BitVec 24), Completes (.call k g off) always
    (fun s c q => spillReturns (s.modThread c q (fun t => callTo t (t.pc + off.signExtend 64))) c q
      (s.thread c q).stack.length) justNext) ∧
  (∀ w : FForm, Completes (.callx w) always
    (fun s c q => spillReturns (s.modThread c q (fun t => callTo t (readPair s c q w.a))) c q
      (s.thread c q).stack.length) justNext) ∧
  (∀ w : FForm, Completes (.ret w)
    (fun s c q => match (s.thread c q).stack.getLast? with
      | some e => (s.thread c q).loops.length == bits e.toNat 59 57
      | none => (s.thread c q).tx.isNone && (((commitAll s c q).1.thread c q).rfLatch).isNone)
    (fun s c q => match (s.thread c q).stack.getLast? with
      | some e =>
        branchTo (fillReturns (s.modThread c q (fun t => { t with
          stack := t.stack.dropLast, loops := restoreSusp t.loops e })) c q (s.thread c q).stack.length) c q
          (BitVec.ofNat 64 (bits e.toNat 56 0))
      | none => (commitAll s c q).1.modThread c q endThread) justNext) ∧
  (∀ w : FForm, Completes (.exit w)
    (fun s c q => (s.thread c q).tx.isNone && (((commitAll s c q).1.thread c q).rfLatch).isNone)
    (fun s c q => (commitAll s c q).1.modThread c q endThread) justNext) ∧
  (∀ (t : Thread) (target : DWord), t.stack.length = 64 →
    let u := callTo t target
    u.stack.length = 64 ∧ ∀ i, i < 63 → u.stack[i]? = t.stack[i + 1]?) ∧
  (∀ (s : State) (c q old : Nat),
    let st := (s.thread c q).stack
    let place := fun (i : Nat) => 0x50000 + 0xA00 * q + 0x700 + 8 * i
    let spill := fun (u : State) (i : Nat) => saveWrite u c (place i) (st.getD i 0).toNat 8
    (old < 64 → st.length = old + 1 →
      spillReturns s c q old = if old < 16 then s else spill s (old - 16)) ∧
    (old = 64 → st.length = 64 → spillReturns s c q old = (List.range 48).foldl spill s) ∧
    (∀ pa : Nat, 17 ≤ old → st.length + 1 = old → imgAddr (s.block c) (place (old - 17)) = some pa →
      let r := physRead s pa 8
      fillReturns s c q old = r.1.modThread c q (fun t => { t with
        stack := t.stack.set (old - 17) (BitVec.ofNat 64 r.2.1) })) ∧
    (old ≤ 16 → fillReturns s c q old = s))

/-- R100: what a CALL that is not an end word pushes is what a RET at the same loop depth restores: the suspension bits
of every level, and the word after the CALL, provided that word has 57 bits. Below it stands what stood there before,
at depth 64 without entry 0 (R87). -/
def Obligations.ReturnRestoresWhatCallSuspended : Prop :=
  ∀ (t : Thread) (target : DWord), t.loops.length ≤ 4 → t.stack.length ≤ 64 → (t.pc + 1).toNat < 2 ^ 57 →
    endWord 5 t = (t, t.pc + 1) →
    let u := callTo t target
    u.pc = target ∧ u.loops.all (·.susp) = true ∧ u.loops.length = t.loops.length ∧
    ∃ e, u.stack.getLast? = some e ∧ u.stack.dropLast = t.stack.drop (t.stack.length - 63) ∧
      bits e.toNat 59 57 = t.loops.length ∧
      BitVec.ofNat 64 (bits e.toNat 56 0) = t.pc + 1 ∧ restoreSusp u.loops e = t.loops

/-- LOOP and LBRK (R92, R98, R414). LOOP completes where its level is the next one, inside the innermost active body
and clear of the active windows; a count of zero jumps past the body, any other opens the level. With four levels
open, or with another level than the next, it raises LOOP_DEPTH, else, where it does not nest, LOOP_NEST, both with
its level; RET at another loop depth than its entry's raises LOOP_CALL with both depths (R100); all without any other
effect. That a level opened without ROT holds BASE 0 no rule gives: it is the model's choice, log entry 71 (DESIGN
CHOICE). -/
def Obligations.LoopResults : Prop :=
  (∀ w : LoopForm,
    let size := if w.rotb = 63 then 0 else w.rots.toNat + 1
    let base := if w.rotb = 63 then 0 else w.rotb.toNat
    Completes (.loop w)
      (fun s c q =>
        let t := s.thread c q
        let last := t.pc + w.endOff.setWidth 64
        t.loops.length < 4 && w.lvl.toNat == t.loops.length &&
          !(t.innermost.bind (fun i => t.loops[i]?)).any (fun l => l.last.toNat < last.toNat) &&
          !(size != 0 && windowClash t base size) &&
          !(w.stg != 0 && t.loops.any (fun l => !l.susp && l.stgm1 != 0)))
      (fun s c q =>
        let t := s.thread c q
        let n := (readWord s c q w.cnt).toNat
        let last := t.pc + w.endOff.setWidth 64
        if n = 0 then s.modThread c q (fun u => { u with pc := last + 1 })
        else
          let l : LoopLevel := ⟨BitVec.ofNat 32 (min (n + w.stg.toNat) (2 ^ 32 - 1)), t.pc + 1, last, false, w.stg,
            BitVec.ofNat 6 base, BitVec.ofNat 5 size, 0⟩
          s.modThread c q (fun u => { u with
            loops := u.loops ++ [l]
            preds := if w.stg = 0 then u.preds else (u.preds &&& 0xFF#16) ||| 0x100#16
            pc := u.pc + 1 }))
      justNext) ∧
  (∀ w : FForm,
    let i := (w.sub.extractLsb' 0 2).toNat
    Completes (.lbrk w) always
      (fun s c q => match (s.thread c q).loops[i]? with
        | some l => if l.susp then completeWord s c q
          else s.modThread c q (fun t => { t.popLevel i with pc := l.last + 1 })
        | none => completeWord s c q) justNext) ∧
  (∀ w : LoopForm, Traps (.loop w) (fun s c q =>
    let t := s.thread c q
    let size := if w.rotb = 63 then 0 else w.rots.toNat + 1
    let base := if w.rotb = 63 then 0 else w.rotb.toNat
    let last := t.pc + w.endOff.setWidth 64
    if t.loops.length = 4 ∨ w.lvl.toNat ≠ t.loops.length then some (s, Trap.plain 0x08 (w.lvl.toNat + 1))
    else if (t.innermost.bind (fun i => t.loops[i]?)).any (fun l => decide (l.last.toNat < last.toNat)) = true ∨
        (0 < size ∧ ∃ l ∈ t.loops, l.susp = false ∧ l.wsize ≠ 0 ∧ l.wbase.toNat < base + size ∧
          base < l.wbase.toNat + l.wsize.toNat) ∨
        (w.stg ≠ 0 ∧ ∃ l ∈ t.loops, l.susp = false ∧ l.stgm1 ≠ 0) then
      some (s, Trap.plain 0x09 (w.lvl.toNat + 1))
    else none)) ∧
  (∀ w : FForm, Traps (.ret w) (fun s c q => (s.thread c q).stack.getLast?.bind (fun e =>
    if (s.thread c q).loops.length = bits e.toNat 59 57 then none
    else some (s, Trap.plain 0x0A (16 * (s.thread c q).loops.length + bits e.toNat 59 57)))))

/-- R93: the end word of the innermost active level. With more than one iteration left the count goes down by one, a
window turns back by one register, stage predicates move up with p8 true while a stage still starts iterations, and
the body starts again. With one left the level pops, and the same word is evaluated for the level that is then
innermost, to any depth. A word that ends no active level only goes on to the next word. That an active level below a
suspended one takes all above it with it is log entry 86 (DESIGN CHOICE). -/
def Obligations.EndWordEvaluation : Prop :=
  ∀ (t : Thread) (i : Nat) (l : LoopLevel), t.innermost = some i → t.loops[i]? = some l →
    (l.last ≠ t.pc → endWord 5 t = (t, t.pc + 1)) ∧
    (l.last = t.pc → 1 < l.cnt.toNat →
      let u := (endWord 5 t).1
      (endWord 5 t).2 = l.base ∧
      u.loops[i]? = some { l with
        cnt := l.cnt - 1
        rrb := if l.wsize = 0 then l.rrb
          else BitVec.ofNat 7 ((l.rrb.toNat + (8 * l.wsize.toNat - 1)) % (8 * l.wsize.toNat)) } ∧
      (∀ j, j ≠ i → u.loops[j]? = t.loops[j]?) ∧ u.regs = t.regs ∧
      (l.stgm1 = 0 → u.preds = t.preds) ∧
      (l.stgm1 ≠ 0 → u.preds.getLsbD 8 = decide (l.stgm1.toNat + 1 ≤ l.cnt.toNat - 1) ∧
        (∀ k, 8 < k → k < 16 → u.preds.getLsbD k = t.preds.getLsbD (k - 1)) ∧
        (∀ k, k < 8 → u.preds.getLsbD k = t.preds.getLsbD k))) ∧
    (l.last = t.pc → l.cnt.toNat ≤ 1 → t.loops.length ≤ 4 →
      let u : Thread := { t with loops := t.loops.take i }
      endWord 5 t = endWord 5 u ∧ (u.innermost = none → endWord 5 t = (u, t.pc + 1)))

/-- R28 to R33: a ready thread is live and neither suspended nor frozen, and the results that its word waits for have
arrived. Of the ready threads the head is the promoted one of the greatest age, else the one of the highest priority,
then without a yield bit, then of the lowest PC, then of the lowest slot. The party is the head with, of each other
home lane, the lowest slot at its PC and priority, one in whose fetch the word is the head's (log entry 69); a party
that the banks or KEEP hold goes before it. A ready thread that does not issue in an issue clock ages by one; one that
issues starts from 0. R39, R40, R41, R413: a JOIN holds its threads at the word; in the first clock in which every
member of the mask has arrived all of them go on with their predicates true; one that is not released by the end of
the clock in which it expires, when every turn of that clock is over, goes on alone with its predicate false. Under
.AR what the released members have posted is at its home before any of them goes on: the model's reading of R42, log
entry 29. PRIO and YIELD (R52, R453, R496): of a party, the lowest acting slot of each role writes that role's
priority; YIELD sets the thread's yield bit. -/
def Obligations.JoinPriorityAndYieldResults : Prop :=
  (∀ w : JoinForm, Completes (.join w) always
    (fun s c q => s.modThread c q (fun t => { t with
      wait := .join (readWord s c q w.m ||| (1#32 <<< laneOf q)) (s.clock + (readWord s c q w.t).toNat) w.p.toNat w.ar }))
    justNext) ∧
  (∀ (s : State) (c q : Nat) (m : Word) (x p : Nat) (ar : Bool), (s.thread c q).wait = .join m x p ar →
    joinComplete s c q = true →
    let us := (maskSlots q m).filter (fun u => joinsWith m (s.thread c u))
    exec (.joinRelease c q) s = .next (us.foldl (fun s u => leaveJoin s c true u) (us.foldl (joinOrder c) s))) ∧
  (∀ (s : State) (c q : Nat) (m : Word) (x p : Nat) (ar : Bool), (s.thread c q).wait = .join m x p ar →
    joinOrder c s q = if ar then flushPosted s c q else s) ∧
  (∀ (s : State) (c q : Nat) (m : Word) (x p : Nat) (ar : Bool), (s.thread c q).wait = .join m x p ar →
    (s.thread c q).live = true → (x < s.clock ∨ (x = s.clock ∧ s.turns = [])) → joinComplete s c q = false →
    exec (.joinTimeout c q) s = .next
      (completeWord (s.modThread c q (fun t => { t.setPred p false with wait := .none })) c q)) ∧
  (∀ (w : FForm) (s : State) (c : Nat) (slots : List Nat), s.actor = .party c slots →
    let on : Effect := thenNext fun s' c q =>
      let role := (s'.thread c q).role
      let first := ((actingSlots (.prio w) s).filter (fun u => (s.thread c u).role == role)).headD q
      if first = q then s'.modBlock c (fun b => { b with
        prioPend := b.prioPend ++ [(s'.clock, role, (readWord s' c q w.a).toNat % 16)] })
      else s'
    partyOk (.prio w) always on justNext c s slots = true →
    exec (.prio w) s = .next (slots.foldl (memberState (.prio w) on justNext c) s)) ∧
  (∀ (w : FForm) (s : State) (c q : Nat), s.actor = .party c [q] → mayIssue (.prio w) s c q = true →
    guardOn (.prio w) s c q = true →
    let u := issueState (.prio w) s c q
    exec (.prio w) s = .next (completeWord (u.modBlock c (fun b => { b with
      prioPend := b.prioPend ++ [(u.clock, (u.thread c q).role, (readWord u c q w.a).toNat % 16)] })) c q)) ∧
  (∀ (now : Nat) (b : Block) (p : Nat × Role × Nat) (rest : List (Nat × Role × Nat)), b.prioPend = rest ++ [p] →
    (Block.settle now b).prioPend = [] ∧ ∀ r ∈ (Block.settle now b).roles, r.role = p.2.1 → r.prio = p.2.2) ∧
  (∀ w : FForm, Completes (.yield w) always
    (thenNext fun s c q => s.modThread c q (fun t => { t with yld := true })) justNext) ∧
  (∀ (s : State) (t : Thread), ready s t = true → t.live = true ∧ t.susp = .none ∧ t.frozen = false ∧
    (t.wait = .none ∨ ∃ i m on x, t.wait = .cross i m on x) ∧
    (∀ i, t.wait = .none → peekWord s t = some i → i.isCrossLane = false ∧ heldBack s t i = false ∧
      ∀ p ∈ t.pend, p.tag < 7 → i.ctl.wait.getLsbD p.tag = true ∨ i.ctl.alloc.toNat = p.tag → p.arrived = true)) ∧
  (∀ (s : State) (t : Thread) (i : Instr), t.promoted = true → heldBack s t i = true → issuesCopy i = true) ∧
  (∀ (b : Block) (ts : List Thread), (∀ r ∈ b.roles, r.prio < 16) → (∀ t ∈ ts, t.age < 2 ^ 32) →
    (headOf b ts = none ↔ ts = []) ∧
    ∀ h, headOf b ts = some h → h ∈ ts ∧ ∀ t ∈ ts, (t.promoted = true → h.promoted = true) ∧
      (t.promoted = true → t.age ≤ h.age ∧ (t.age = h.age → h.slot ≤ t.slot)) ∧
      (h.promoted = false → b.prioOf t.role ≤ b.prioOf h.role ∧ (b.prioOf t.role = b.prioOf h.role →
        (h.yld = true → t.yld = true) ∧ (t.yld = h.yld → h.pc.toNat ≤ t.pc.toNat ∧
          (t.pc = h.pc → h.slot ≤ t.slot))))) ∧
  (∀ (s : State) (c k : Nat) (rs : List Thread) (h : Thread), h ∈ rs → h.wait = .none →
    let b := s.block c
    let mate := fun (t : Thread) => t ∈ rs ∧ t.wait = .none ∧ t.pc = h.pc ∧ effPrio b t = effPrio b h ∧
      peekWord s t = peekWord s h
    let p := partyOf s c rs h
    h.slot ∈ p ∧ (∀ q ∈ p, ∃ t, mate t ∧ t.slot = q) ∧ (p.map laneOf).Nodup ∧ p.Pairwise (· ≤ ·) ∧
    (∀ t, mate t → ∃ q ∈ p, laneOf q = laneOf t.slot ∧ (q ≠ h.slot → q ≤ t.slot)) ∧
    ((b.holds.find? (fun x => x.1 == k)) = none → keptParty s c k rs = none → headOf b rs = some h →
      partyNow s c k rs = some (p, false)) ∧
    ((b.holds.find? (fun x => x.1 == k)) = none → ∀ l, keptParty s c k rs = some l →
      partyNow s c k rs = some (l, false) ∧ (k, l) ∈ b.kept ∧ (∀ t ∈ rs, t.promoted = false) ∧
      (∀ q ∈ l, ∃ t ∈ rs, t.slot = q)) ∧
    (∀ l, b.holds.find? (fun x => x.1 == k) = some (k, l) → stillHeld s c l = true →
      partyNow s c k rs = some (l, true))) ∧
  (∀ (s : State) (c k : Nat) (l : List Nat), (s.block? c).isSome = true →
    ((k, l) ∈ ((noteKept s c k l).block c).kept ↔ l ≠ [] ∧ ∀ q ∈ l, (s.thread c q).keep = true)) ∧
  (∀ (s : State) (c q : Nat) (rs : List Thread) (l : List Nat), (s.thread? c q).isSome = true →
    ((ageOthers s c rs l).thread c q).age = (s.thread c q).age +
      if (s.thread c q).live = true ∧ q ∉ l ∧ ∃ t ∈ rs, t.slot = q then 1 else 0) ∧
  (∀ (s : State) (c q : Nat) (k : Ctl), (s.thread? c q).isSome = true →
    ((startIssue s c q k).thread c q).age = 0 ∧ ((startIssue s c q k).thread c q).promoted = false) ∧
  (∀ (s : State) (c q : Nat) (rs : List Thread), (s.thread? c q).isSome = true →
    let t := s.thread c q
    ((clearYields s c (quarterOf q) rs).thread c q).yld = (t.yld && decide (∃ u ∈ rs, u.slot ≠ q ∧ u.yld = false ∧
      effPrio (s.block c) u = effPrio (s.block c) t)))

/-! ## Faults and traps -/

/-- TRAP takes SWTRAP with its immediate as EXTRA (R488); TRET inside a handler returns (R489); SVC suspends the thread:
inside a handler of a resolvable cause on that cause, else with a service request whose word is kept (R482). -/
def Obligations.TrapServiceAndReturnResults : Prop :=
  (∀ w : IForm, Completes (.trap w) (fun s c q => (s.thread c q).tx.isNone)
    (fun s c q => takeFault s c q (Trap.plain cSwTrap w.imm.toNat)) justNext) ∧
  (∀ w : FForm, Completes (.tret w) (fun s c q => (s.thread c q).inTrap) returnFromTrap justNext) ∧
  (∀ w : IForm, Completes (.svc w) always
    (fun s c q =>
      let t := s.thread c q
      let r := endWord 5 t
      let u := s.modThread c q (fun _ => r.1)
      if t.inTrap && resolvable (t.tcause.toNat % 256) then suspend u c q .handlerSvc (t.tcause.toNat % 256) t.taddr
      else suspend u c q (.service r.2) 0 (w.imm.setWidth 64)) justNext)

/-- R269, R270: a fault taken by a thread with a handler and no result under way. The word's address is saved in TPC,
the access's in TADDR, the cause in TCAUSE; the loop levels go to the shadow; INTRAP is set; the thread continues at
TVEC. Its registers, predicates and return stack are as they were. R101, R488: SWTRAP saves the word that follows the
TRAP, not the TRAP's own. The fault record at offset 0x900 of the thread's record holds TPC, TADDR, TCAUSE, EXTRA, the
physical address, the producer word and the flags, each in its place, where the image lies in memory of this package
whose bytes no core holds dirty. -/
def Obligations.TakingAFaultEntersTheHandler : Prop :=
  (∀ (s : State) (c q : Nat) (f : Trap), (s.thread? c q).isSome = true → (s.thread c q).pend = [] →
    (s.thread c q).inTrap = false → f.cause ≠ cSwTrap → (s.block c).tvecAt s.clock q ≠ 0 →
    let t := s.thread c q
    let u := (takeFault s c q f).thread c q
    u.tpc = t.pc ∧ u.taddr = f.addr.getD (12 * t.pc) ∧
    u.tcause = BitVec.ofNat 32 (f.kind % 16 * 2 ^ 8 + f.cause % 256) ∧
    u.inTrap = true ∧ u.pc = (s.block c).tvecAt s.clock q ∧ u.shadow = t.loops ∧ u.shadowV = true ∧ u.loops = [] ∧
    u.latches = [] ∧ u.regs = t.regs ∧ u.preds = t.preds ∧ u.stack = t.stack ∧ u.live = t.live) ∧
  (∀ (s : State) (c q a : Nat) (f : Trap), (s.thread? c q).isSome = true → (s.thread c q).pend = [] →
    (s.thread c q).inTrap = false → f.cause ≠ cSwTrap → (s.block c).tvecAt s.clock q ≠ 0 →
    (s.thread c q).loops.length ≤ 4 → (s.thread c q).susp = .none →
    imgAddr (s.block c) (threadRecord q + 0x900) = some a → a % 256 = 0 → paTier a ≤ 1 → s.remote a = false →
    s.rested = true → s.memWf = true →
    let t := s.thread c q
    let u := takeFault s c q f
    let at' := fun (o n : Nat) => leNat (memBytes u (a + o) n)
    at' 0x00 8 = t.pc.toNat ∧ at' 0x08 8 = (f.addr.getD (12 * t.pc)).toNat ∧
    at' 0x10 4 = f.kind % 16 * 2 ^ 8 + f.cause % 256 ∧ at' 0x14 4 = f.extra % 2 ^ 32 ∧ at' 0x18 8 = f.phys % 2 ^ 64 ∧
    at' 0x20 8 = f.producer.toNat ∧
    at' 0x34 4 = b2n t.pendPoison + 4 * b2n t.frozen + 8 * b2n t.rfLatch.isSome + 16 * b2n t.pendLost.isSome +
      (t.pendLost.getD 0) % 1024 * 2 ^ 6 + (t.rfLatch.getD 0) % 1024 * 2 ^ 16) ∧
  (∀ (s : State) (c q n : Nat), (s.thread? c q).isSome = true → (s.thread c q).pend = [] →
    (s.thread c q).inTrap = false → (s.block c).tvecAt s.clock q ≠ 0 → (s.thread c q).loops = [] →
    let u := (takeFault s c q (Trap.plain cSwTrap n)).thread c q
    u.tpc = (s.thread c q).pc + 1 ∧ u.taddr = 12 * (s.thread c q).pc ∧ u.tcause = 0x20#32 ∧
    u.pc = (s.block c).tvecAt s.clock q)

/-- R269, R489: TRET after the entry of a fault restores what the entry put away: the thread stands at the faulting word
with its loop levels, registers, predicates and flags, and INTRAP is clear. That the levels come from the thread's own
copy of the shadow is log entry 77 (DESIGN CHOICE). -/
def Obligations.ReturnUndoesTrapEntry : Prop :=
  ∀ (s : State) (c q : Nat) (f : Trap), (s.thread? c q).isSome = true → (s.thread c q).pend = [] →
    (s.thread c q).inTrap = false → f.cause ≠ cSwTrap → (s.block c).tvecAt s.clock q ≠ 0 →
    let t := s.thread c q
    let u := (returnFromTrap (takeFault s c q f) c q).thread c q
    u.pc = t.pc ∧ u.loops = t.loops ∧ u.tst = t.tst ∧ u.regs = t.regs ∧ u.preds = t.preds ∧ u.stack = t.stack ∧
    u.shadowV = false

/-- R274, R275, R277, R278, R279: without a handler a resolvable fault suspends the thread, which keeps its slot and
its word; a fault inside a handler sets NCAUSE; if it can be resolved the thread is suspended there, its own cause
kept; if not, CAUSE becomes DOUBLE, NCAUSE stays, the thread freezes for good and its block is killed: every thread of
the core stops, its results dropped. A handler's end word that raises SWTRAP is evaluated before that (R93, R488). A
suspension puts one record in the fault queue: while the ring has room it is written at the place that FQTAIL names,
FQTAIL goes up by one and the host cores are interrupted; else it waits. -/
def Obligations.SuspensionNestingAndDouble : Prop :=
  (∀ (s : State) (c q : Nat) (f : Trap), (s.thread? c q).isSome = true → (s.thread c q).pend = [] →
    (s.thread c q).inTrap = false → f.cause ≠ cSwTrap → (s.block c).tvecAt s.clock q = 0 →
    resolvable f.cause = true →
    let u := (takeFault s c q f).thread c q
    u.susp = .fault (f.addr.getD (12 * (s.thread c q).pc)) (BitVec.ofNat 32 (f.kind % 16 * 2 ^ 8 + f.cause % 256)) ∧
    u.pc = (s.thread c q).pc ∧ u.live = (s.thread c q).live ∧ u.loops = (s.thread c q).loops) ∧
  (∀ (s : State) (c q : Nat) (f : Trap), (s.thread? c q).isSome = true → (s.thread c q).pend = [] →
    (s.thread c q).inTrap = true → resolvable f.cause = true →
    let t := s.thread c q
    let u := takeFault s c q f
    let v := u.thread c q
    v.susp = .nested (f.addr.getD (12 * t.pc)) (BitVec.ofNat 32 f.extra) ∧
    v.tcause.extractLsb' 16 8 = BitVec.ofNat 8 f.cause ∧ v.tcause.extractLsb' 0 8 = t.tcause.extractLsb' 0 8 ∧
    v.tpc = t.tpc ∧ v.taddr = t.taddr ∧ v.pc = t.pc ∧ v.live = t.live ∧ v.inTrap = true ∧ v.frozen = t.frozen ∧
    (∀ n m, n ≠ q ∨ m ≠ c → u.thread m n = s.thread m n) ∧
    u.regs.fqTail = (if (s.regs.fqTail - s.regs.fqHead).toNat < 4096 then s.regs.fqTail + 1 else s.regs.fqTail)) ∧
  (∀ (s : State) (c q : Nat) (f : Trap), (s.thread? c q).isSome = true → (s.thread c q).pend = [] →
    (s.thread c q).inTrap = true → resolvable f.cause = false →
    let t := s.thread c q
    let u := (takeFault s c q f).thread c q
    u.tcause.extractLsb' 0 8 = 0x22#8 ∧ u.tcause.extractLsb' 16 8 = BitVec.ofNat 8 f.cause ∧ u.frozen = true ∧
    u.live = false ∧ u.tpc = t.tpc ∧
    (let e := if f.cause = cSwTrap then (endWord 5 t).1 else t
     u.loops = e.loops ∧ u.preds = e.preds) ∧
    (∀ n, ((takeFault s c q f).thread c n).live = false ∧
      ((s.thread? c n).isSome = true → ((takeFault s c q f).thread c n).pend = [])) ∧
    ((s.block? c).isSome = true → ((takeFault s c q f).block c).killed = true)) ∧
  (∀ (s : State) (f : FqRecord),
    let a := s.regs.fqBase.toNat + 32 * (s.regs.fqTail.toNat % 4096)
    ((s.regs.fqTail - s.regs.fqHead).toNat < 4096 →
      (fqPush s f).regs = { s.regs with fqTail := s.regs.fqTail + 1 } ∧ (fqPush s f).fqWait = s.fqWait ∧
      Notice.hostInterrupt ∈ (fqPush s f).notices ∧
      (paTier a ≠ 2 → a % 32 = 0 → s.memWf = true → leNat (memBytes (fqPush s f) a 32) = f.data.toNat)) ∧
    (¬(s.regs.fqTail - s.regs.fqHead).toNat < 4096 → fqPush s f = { s with fqWait := s.fqWait ++ [f] })) ∧
  (∀ (s : State) (c slot cause : Nat) (ta ra : DWord),
    let b := s.block c
    let d := (fqRecord s c slot cause ta ra).data
    b.bx < 2 ^ 8 → b.bY < 2 ^ 8 → slot < 2 ^ 16 → cause < 2 ^ 8 →
    d.extractLsb' 0 16 = BitVec.ofNat 16 b.rect ∧ d.extractLsb' 16 8 = BitVec.ofNat 8 b.bx ∧
    d.extractLsb' 24 8 = BitVec.ofNat 8 b.bY ∧ d.extractLsb' 32 16 = BitVec.ofNat 16 slot ∧
    d.extractLsb' 48 8 = BitVec.ofNat 8 cause ∧ d.extractLsb' 64 64 = ta ∧ d.extractLsb' 128 64 = ra ∧
    d.extractLsb' 192 64 = 0#64) ∧
  (∀ (s : State) (t : Thread), t.frozen = true → ready s t = false)

/-- R31, R51, R79, R81, R272, R273, R286, R344, R497: the first of a thread's decode faults stops its word before any
effect, its YLD and KEEP among them. A party whose word cannot be fetched takes the fault of the fetch in each of its
threads, one whose word is no instruction ILLEGAL_OPCODE, ILLEGAL_ENCODING, ILLEGAL_PAIR or ILLEGAL_OPERAND (or ROLE,
for a stream word, R425). Any word outside the thread's role raises ROLE; one that names a register at or beyond the
role's limit raises REG_RANGE with that name; SWR to a read-only system register raises PRIV with the register's
number, and no other instruction has that fault. A cross-lane word has these faults at its arrival, before its clock
of issue (R43). Then a poisoned or lost result that the word waits for raises POISON or PEER_LOST, and under a true
guard a latch operand that is invalid and has no register to fall back to raises LATCH_LOST with its number. -/
def Obligations.DecodeFaultsComeFirst : Prop :=
  (∀ (i : Instr) (s : State) (c q : Nat), i.wfThread = true →
    s.actor = .party c [q] → (s.thread c q).live = true → resumeFault s c q = none →
    (∀ j m on t, (s.thread c q).wait ≠ .cross j m on t) →
    let u := if (crossForm i).isSome then s else startIssue s c q noCtl
    (i.roleOk (s.thread c q).role = false →
      exec i s = .next (raiseFault u c q (Trap.plain cRole (roleCode (s.thread c q).role)))) ∧
    (∀ n, i.roleOk (s.thread c q).role = true →
      i.regRangeFault ((s.block c).limitOf (s.thread c q).role) = some n →
      exec i s = .next (raiseFault u c q (Trap.plain cRegRange n)))) ∧
  (∀ (i : Instr) (s : State) (c : Nat) (slots : List Nat), i.wfThread = true → crossForm i = none →
    s.actor = .party c slots → slots.Nodup →
    (∀ q ∈ slots, (s.thread c q).live = true ∧ resumeFault s c q = none ∧ i.roleOk (s.thread c q).role = false) →
    exec i s = .next (slots.foldl (fun u q => if (u.thread c q).live = false then u else
      raiseFault (startIssue u c q noCtl) c q (Trap.plain cRole (roleCode (s.thread c q).role))) s)) ∧
  (∀ w : FForm, (Instr.swr w).privFault =
    (if w.subN ∈ [0x014, 0x015, 0x016, 0x017, 0x018, 0x019, 0x01A, 0x01B, 0x01C, 0x01D, 0x01E, 0x01F, 0x040, 0x041, 0x042,
        0x043, 0x044] then some w.subN else none)) ∧
  (∀ i : Instr, (∀ w, i ≠ .swr w) → i.privFault = none) ∧
  (∀ (w : FForm) (s : State) (c q n : Nat), s.actor = .party c [q] → (s.thread c q).live = true →
    resumeFault s c q = none → (Instr.swr w).roleOk (s.thread c q).role = true →
    (Instr.swr w).regRangeFault ((s.block c).limitOf (s.thread c q).role) = none →
    (Instr.swr w).privFault = some n →
    exec (.swr w) s = .next (raiseFault (startIssue s c q noCtl) c q (Trap.plain cPriv n))) ∧
  (∀ (s b f : State) (c k : Nat) (r : List Turn) (slots : List Nat) (held : Bool) (x : Except Trap IWord),
    s.agenda = [] → s.turns = .quarter c k :: r → s.halted = false → (s.block? c).isSome = true →
    (let a := arrivals (s.setTurns r) c k
     b = clearYields a c k (readyOf a c k)) →
    partyNow b c k (readyOf b c k) = some (slots, held) →
    let b' := b.modBlock c (fun x => { x with holds := x.holds.filter (fun h => h.1 != k) })
    let u := (slots.drop 1).foldl (fun u q => noteFetched b' u c q) f
    let stop := fun (why : Thread → Trap) =>
      afterIssue (slots.foldl (faultOne why c) u) c k (readyOf b c k) slots
    (∀ i m on t, (b'.thread c (slots.headD 0)).wait ≠ .cross i m on t) →
    fetchWord b' (b'.agent c) (slots.headD 0) (b'.thread c (slots.headD 0)).pc = (f, x) →
    (∀ t, x = .error t → step s = .next (stop (fun _ => t))) ∧
    (∀ w e, x = .ok w → decodeThread w = .error e → step s = .next (stop (decodeTrap e)))) ∧
  (∀ (why : Thread → Trap) (c q : Nat) (s : State), (s.thread c q).live = true → resumeFault s c q = none →
    faultOne why c s q = raiseFault (startIssue s c q noCtl) c q (why (s.thread c q))) ∧
  (∀ (t : Thread) (n : Nat), decodeTrap .illegalOpcode t = Trap.plain 0x01 0 ∧
    decodeTrap (.illegalOperand n) t = Trap.plain 0x02 n ∧ decodeTrap .illegalPair t = Trap.plain 0x03 0 ∧
    decodeTrap .role t = Trap.plain 0x04 (roleCode t.role) ∧ decodeTrap .illegalEncoding t = Trap.plain 0x0B 0) ∧
  (decodeThread 0 = .error .illegalEncoding ∧ decodeThread (BitVec.allOnes 96) = .error .illegalOpcode) ∧
  (∀ (s : State) (c q : Nat) (k : Ctl), let u := (startIssue s c q k).thread c q
    (s.thread? c q).isSome = true → u.yld = ((s.thread c q).yld || k.yld) ∧ u.keep = (k.keep && !k.yld)) ∧
  (∀ (i : Instr) (s : State) (c q : Nat), i.wfThread = true → crossForm i = none → s.actor = .party c [q] →
    (s.thread c q).live = true → resumeFault s c q = none →
    threadDecodeFault (s.block c) (s.thread c q) i = none →
    let n := commitTags (startIssue s c q noCtl) c q (Ctl.tags i.ctl)
    let r := commitTags (startIssue s c q i.ctl) c q (Ctl.tags i.ctl)
    let u := r.1.thread c q
    (∀ p, r.2 = some p → exec i s = .next (raiseFault n.1 c q (resultTrap p))) ∧
    (∀ l, r.2 = none → Guard.holds i.guard u = true → (u.tx.isSome && txForbidden i) = false →
      lostLatch u (liveUses u i) = some l → exec i s = .next (raiseFault r.1 c q (Trap.plain cLatchLost l)))) ∧
  (∀ p : Pending, (resultTrap p).cause = (if p.lost.isSome then 0x18 else 0x1A) ∧
    (p.kind ≠ 0 → (resultTrap p).producer = p.producer ∧ (resultTrap p).addr = some p.addr)) ∧
  (∀ (t : Thread) (n : Nat), t.latch n = none ↔
    ∀ l, t.latches[n]? = some l → l.valid = false ∧ l.src = none)


/-! ## Cross-lane words (class 4) -/

/-- R43, R45: a complete member group executes in one clock, for whichever of its threads the event or the turn names;
each active member receives its result under its tag and goes on. That operands A and B are those of that clock is the
model's reading, log entry 21 (DEDUCED); a member whose A or B cannot be read then takes its fault (R79, R286) and adds
nothing. A member under a false guard supplies its A all the same (R424), whatever its B. PROJL also writes the team's
projection register. A thread that R43 has held for 2^20 clocks takes STALL_WATCHDOG with its mask. -/
def Obligations.CrossLaneResults : Prop :=
  (∀ w : FForm, ∀ i ∈ [Instr.shfl w, .pushl w, .vote w, .matchLanes w, .redl w, .projl w, .proj w],
    ∀ (s : State) (c q : Nat) (m : Word) (on : Bool) (x : Nat),
    (s.thread c q).wait = .cross i m on x → crossReady s c q = true →
    let all := crossGroup s c q
    let group := all.filter (fun r => (crossFault s c i r).isNone)
    let ls := group.map (crossLane s c w)
    let u := all.foldl (fun (u : State) r => match crossFault s c i r with
      | some f => if (u.thread c r).live = true then raiseFault (startIssue u c r w.ctl) c r f else u
      | none => u) { s with freeCtr := s.freeCtr + 32 }
    let v := match i, group with
      | .projl p, r :: _ => u.modBlock c (fun b => { b with proj := SMap.set b.proj (projReg p r) (projWord ls) })
      | _, _ => u
    let t := group.foldl (crossFinish (u.block c) i w c ls) v
    exec (.crossLaneExecute c q) s = .next t ∧
    ((∀ r ∈ all, crossFault s c i r = none) → group = all ∧ u = { s with freeCtr := s.freeCtr + 32 } ∧
      (all ≠ [] → s.actor = .party c all → exec i s = .next t))) ∧
  (∀ (w : FForm) (s : State) (c r : Nat), lostLatch (s.thread c r) [w.useA w.ty.regs] = none →
    crossLane s c w r = ⟨laneOf r, waitsOn (s.thread c r), readSrc s c r w.a w.ty.regs, readWord s c r w.b⟩) ∧
  (∀ (s : State) (c q : Nat) (i : Instr), crossFault s c i q =
    if waitsOn (s.thread c q) = false then none
    else match lostLatch (s.thread c q) (i.uses.filter (fun u => u.field != 3)) with
      | some n => some (Trap.plain cLatchLost n)
      | none => if readsStruck (s.thread c q) (i.uses.filter (fun u => u.field != 3)) = true
          then some ⟨cPoison, 2, 6, none, 0, 0⟩ else none) ∧
  (∀ (s : State) (c q : Nat) (i : Instr) (m : Word) (on : Bool) (x : Nat), (s.thread c q).wait = .cross i m on x →
    exec (.stallWatchdog c q) s =
      .next (if x + 2 ^ 20 ≤ s.clock ∧ crossReady s c q = false then
        raiseFault s c q (Trap.plain cStallWatchdog m.toNat) else s))

/-- What members receive. VOTE and MATCH (R429, R474): bit k of the mask tells of the member in lane k; the predicate
of MATCH.ANY tells of another member of the same value. SHFL (R46, R473): the value of the source lane that the mode
gives, with the predicate set, where it lies in the caller's sub-group and is active, else the own value with it clear.
PUSHL (R47, R457): the highest lane that sends here wins, and the predicate tells that more than one does. REDL (R461):
integer ADD is the sum modulo 2^n, MIN and MAX a least and a greatest value by signedness, AND, OR and XOR go bit by
bit, and FP32 words go lane by lane with RNE sums, FMIN and FMAX, their flags kept. PROJ (R454, R456): every control
word sends the 32 lanes to 32 different lanes, and control word 0 sends each lane to itself; a member receives the
value of the active lane that is sent to its own, with the predicate set, else its own value with it clear. PROJL
(R455): its word sends the source of every kept request, the highest lane's of those for one source, to the lane that
asks, and the other sources in ascending order to the other lanes; the predicate tells that the member's request is
kept. -/
def Obligations.CrossLaneValues : Prop :=
  (∀ (w : FForm) (ls : List CLane) (m : CLane), (ls.map (·.lane)).Nodup →
    let r := voteResult w ls m
    (∀ k : Nat, (r.val.getD 0).testBit k = ls.any (fun x => x.on && x.a != 0 && x.lane == k)) ∧
    (w.mode = 0 → r.pred = ls.any (fun x => x.on && x.a != 0)) ∧
    (w.mode = 1 → r.pred = ls.all (fun x => !x.on || x.a != 0)) ∧
    (w.mode = 2 → r.pred = (ls.all (fun x => !x.on || x.a != 0) || ls.all (fun x => !x.on || x.a == 0)))) ∧
  (∀ (w : FForm) (ls : List CLane) (m : CLane), w.mode = 0 → ∀ k : Nat,
    ((matchResult w ls m).val.getD 0).testBit k = ls.any (fun x => x.on && x.a == m.a && x.lane == k)) ∧
  (∀ (w : FForm) (ls : List CLane) (m : CLane), w.mode = 0 → (ls.map (·.lane)).Nodup → m ∈ ls → m.on = true →
    ((matchResult w ls m).pred = true ↔ ∃ x ∈ ls, x.on = true ∧ x.a = m.a ∧ x.lane ≠ m.lane)) ∧
  (∀ (w : FForm) (ls : List CLane) (m : CLane), w.mode ≠ 0 →
    let r := matchResult w ls m
    (r.pred = true ↔ ∀ x ∈ ls, x.on = true → x.a = m.a) ∧
    ∀ k : Nat, (r.val.getD 0).testBit k = (r.pred && ls.any (fun x => x.on && x.lane == k))) ∧
  (∀ (mode n lane : Nat) (d : Int), n ∈ [2, 4, 8, 16, 32] → mode < 4 →
    let base : Int := (lane - lane % n : Nat)
    let src : Int := if mode = 0 then base + d else if mode = 1 then lane - d else if mode = 2 then lane + d
      else (lane ^^^ d.toNat : Nat)
    shflSource mode n lane d = if (mode = 0 ∨ mode = 3 → 0 ≤ d ∧ d < n) ∧ base ≤ src ∧ src < base + n
      then some src.toNat else none) ∧
  (∀ (w : FForm) (ls : List CLane) (m : CLane), (ls.map (·.lane)).Nodup →
    let src := shflSource w.mode (2 ^ w.wj) m.lane m.b.toInt
    (∀ x ∈ ls, src = some x.lane → shflResult w ls m = ⟨some x.a, true, 0⟩) ∧
    ((∀ x ∈ ls, src ≠ some x.lane) → shflResult w ls m = ⟨some m.a, false, 0⟩)) ∧
  (∀ (w : FForm) (ls : List CLane) (m : CLane), ls.Pairwise (fun x y => x.lane < y.lane) →
    let r := pushlResult w ls m
    let sends := fun (x : CLane) => x ∈ ls ∧ x.on = true ∧ shflSource 0 (2 ^ w.wj) x.lane x.b.toInt = some m.lane
    ((∀ x, ¬sends x) → r.val = none ∧ r.pred = false) ∧
    ∀ x, sends x → (∀ y, sends y → y.lane ≤ x.lane) →
      r.val = some x.a ∧ (r.pred = true ↔ ∃ y, sends y ∧ y.lane ≠ x.lane)) ∧
  (∀ (mode k lane : Nat) (d : Int) (x : Nat), shflSource mode (2 ^ k) lane d = some x → x / 2 ^ k = lane / 2 ^ k) ∧
  (∀ (w : FForm) (ls : List CLane) (m : CLane), w.mode = 0 → w.ty ≠ .f32 → (∀ x ∈ ls, x.a < 2 ^ w.ty.bits) →
    ls.any (·.on) = true →
    (redlResult w ls m).val = some (((ls.filter (·.on)).map (·.a)).sum % 2 ^ w.ty.bits)) ∧
  (∀ (w : FForm) (ls : List CLane) (m : CLane), ls.any (·.on) = true →
    let on := ls.filter (·.on)
    let r := redlResult w ls m
    (w.ty ≠ .f32 → w.mode = 1 → ∃ v ∈ on.map (·.a), r.val = some v ∧ ∀ x ∈ on, tyValue w.ty v ≤ tyValue w.ty x.a) ∧
    (w.ty ≠ .f32 → w.mode = 2 → ∃ v ∈ on.map (·.a), r.val = some v ∧ ∀ x ∈ on, tyValue w.ty x.a ≤ tyValue w.ty v) ∧
    (∀ k : Nat, (w.mode = 3 → (r.val.getD 0).testBit k = on.all (fun x => x.a.testBit k)) ∧
      (w.mode = 4 → (r.val.getD 0).testBit k = on.any (fun x => x.a.testBit k)) ∧
      (w.mode = 5 → (r.val.getD 0).testBit k = decide ((on.filter (fun x => x.a.testBit k)).length % 2 = 1))) ∧
    (w.ty = .f32 → w.mode < 3 → ∀ (x : CLane) (l : List CLane), on = x :: l →
      let go := l.foldl (fun (acc : Nat × Flags) u =>
        let z := if w.mode = 0 then fAdd fmtF32 .rne (fmtF32.decode acc.1) (fmtF32.decode u.a)
          else (if w.mode = 1 then fMin fmtF32 acc.1 u.a else fMax fmtF32 acc.1 u.a, 0)
        (z.1, acc.2 ||| z.2)) (x.a, 0)
      r = ⟨some go.1, false, go.2⟩)) ∧
  (∀ (word : BitVec 144) (x y : Nat), x < 32 → y < 32 →
    projDest word x < 32 ∧ (projDest word x = projDest word y → x = y) ∧ projDest 0#144 x = x) ∧
  (∀ (word : BitVec 144) (ls : List CLane) (m : CLane), (ls.map (·.lane)).Nodup → (∀ x ∈ ls, x.lane < 32) →
    (∀ x ∈ ls, projDest word x.lane = m.lane → projResult word ls m = ⟨some x.a, true, 0⟩) ∧
    ((∀ x ∈ ls, projDest word x.lane ≠ m.lane) → projResult word ls m = ⟨some m.a, false, 0⟩)) ∧
  (∀ ls : List CLane, (ls.map (·.lane)).Nodup → (∀ x ∈ ls, x.lane < 32) →
    let kept := fun (m : CLane) => m.on = true ∧ m.a < 32 ∧ ∀ x ∈ ls, x.on = true → x.a = m.a → x.lane ≤ m.lane
    let dest := projDest (projWord ls)
    (∀ m ∈ ls, (projlResult ls m).val = none ∧ ((projlResult ls m).pred = true ↔ kept m) ∧
      (kept m → dest m.a = m.lane)) ∧
    ∀ x y : Nat, x < y → y < 32 → (∀ m ∈ ls, kept m → m.a ≠ x ∧ m.a ≠ y) → dest x < dest y)

/-! ## Loads and stores (class 5) -/

/-- LD and ST (R416, R417, R418, R478, R479), typed and untyped, in a transaction or not. They complete where the
access and the format checks of R208 pass, every byte that a typed access touches among them, and the transaction, if
any, has room. A load's result waits under its tag: little-endian, zero- or sign-extended at one and two bytes; typed,
each element converted to the lane type. A store has its bytes, after the page's bound check, written before the next
thread of the party issues. Where a check fails, the first to fail in R208's order raises its fault, with its EXTRA
(R209, R272), and the word has no other effect: the alignment of an untyped access, VA[63:52], V and the form of the
entry at each level of the walk, permission, hole, lease, then of a typed access the format, the alignment to the
element and the data area; BOUND of a store comes last (R149), and poison at the commit of the loaded result (R286).
-/
def Obligations.GlobalLoadAndStoreResults : Prop :=
  (∀ w : IForm, w.typed = false →
    let n := sizeBytes w.size
    let va := fun (s : State) (c q : Nat) => readPair s c q w.a + w.imm.signExtend 64
    let got := fun (s : State) (c q : Nat) (x : Xlated) =>
      readBytesOf (threadAccess s c q (va s c q) n needR 1).1 c q x x.pa n
    Completes (.ld w)
      (fun s c q => match (threadAccess s c q (va s c q) n needR 1).2 with
        | .ok x => (got s c q x).2.toBool
        | .error _ => false)
      (thenNext fun s c q => match (threadAccess s c q (va s c q) n needR 1).2 with
        | .ok x => match (got s c q x).2 with
          | .ok d =>
            let v := leNat d.1
            let v := if w.sx then (tyValue (if w.size = 0 then .i8 else .i16) v % (2 ^ 32 : Int)).toNat else v
            loadResult (got s c q x).1 c q w v 0 (if d.2 then some 0 else none) (va s c q) 1 x.pa
              (readAnswers (threadAccess s c q (va s c q) n needR 1).1 c q x x.pa n)
          | .error _ => s
        | .error _ => s)
      (skipTag w.ctl w.d w.dataRegs) ∧
    Traps (.ld w) (fun s c q => match threadAccess s c q (va s c q) n needR 1 with
      | (u, .error (.trap t)) => some (u, t)
      | _ => none)) ∧
  (∀ w : IForm, w.typed = true →
    let va := fun (s : State) (c q : Nat) => readPair s c q w.a + w.imm.signExtend 64
    let count := typedCount w.size w.lane
    let touched := fun (s : State) (c q : Nat) (e : Pte) (pa : Nat) =>
      let o := (va s c q).toNat % 65536
      match pageFmt e.fmt e.geo with
      | none => [(pa, 1)]
      | some f => if laneOk f w.lane = false ∨ f.dataEnd < o + typedBytes f count then [(pa, 1)]
          else (pa, typedBytes f count) :: (groupsOf f (typedFirst f o) count).map (fun g =>
            (pa - o + f.dataEnd + f.recBytes * g, f.recBytes))
    let acc := fun (s : State) (c q : Nat) => threadSpans s c q (va s c q) (touched s c q) needR 1
    let got := fun (s : State) (c q : Nat) (x : Xlated) (f : PageFmt) =>
      readBytesOf (acc s c q).1 c q x x.pa (typedBytes f count)
    let rec' := fun (s : State) (c q : Nat) (x : Xlated) (f : PageFmt) =>
      let o := (va s c q).toNat % 65536
      readScales (got s c q x f).1 c q x (x.pa - o) f (groupsOf f (typedFirst f o) count)
    Completes (.ld w)
      (fun s c q => match (acc s c q).2 with
        | .ok x =>
          let o := (va s c q).toNat % 65536
          match pageFmt x.pte.fmt x.pte.geo with
          | some f =>
            (typedFault x.pte (some f) (fun f => laneOk f w.lane) o count 1 (va s c q) x.pa).isNone &&
              (got s c q x f).2.toBool && (rec' s c q x f).2.toBool
          | none => false
        | .error _ => false)
      (thenNext fun s c q => match (acc s c q).2 with
        | .ok x =>
          let o := (va s c q).toNat % 65536
          match pageFmt x.pte.fmt x.pte.geo with
          | some f =>
            let i := typedFirst f o
            match (got s c q x f).2, (rec' s c q x f).2 with
            | .ok d, .ok sc =>
              let vs := (List.range count).map (fun k =>
                laneValue f w.lane (f.code o d.1 (i + k)) (recordOf sc.1 ((i + k) / f.group)))
              loadResult (rec' s c q x f).1 c q w (packLanes w.lane (vs.map (·.1)))
                (vs.foldl (fun a v => a ||| v.2) 0) (if d.2 || sc.2.1 then some 0 else none) (va s c q) 1 x.pa
                (readAnswers (acc s c q).1 c q x x.pa (typedBytes f count) || sc.2.2)
            | _, _ => s
          | none => s
        | .error _ => s)
      (skipTag w.ctl w.d w.dataRegs) ∧
    Traps (.ld w) (fun s c q => match acc s c q with
      | (u, .error (.trap t)) => some (u, t)
      | (u, .ok x) => (typedFault x.pte (pageFmt x.pte.fmt x.pte.geo) (fun f => laneOk f w.lane) ((va s c q).toNat % 65536)
          count 1 (va s c q) x.pa).map (fun t => (u, t))
      | _ => none)) ∧
  (∀ w : IForm, w.typed = false →
    let n := sizeBytes w.size
    let va := fun (s : State) (c q : Nat) => readPair s c q w.a + w.imm.signExtend 64
    let acc := fun (s : State) (c q : Nat) => threadAccess s c q (va s c q) n (storeNeed s c q) 2
    let fin := fun (s : State) (c q : Nat) (x : Xlated) =>
      storeFinish (acc s c q).1 c q x (va s c q) (leBytes (readSrc s c q w.d w.dataRegs) n)
        (if x.pte.bidx = 0 ∨ 0x0C < x.pte.fmt then none else pageFmt x.pte.fmt x.pte.geo)
        (fun f => coveredElements f ((va s c q).toNat % 65536) n) 0
    Completes (.st w)
      (fun s c q => match (acc s c q).2 with
        | .ok x => match fin s c q x with
          | .done _ => true
          | _ => false
        | .error _ => false)
      (thenNext fun s c q => match (acc s c q).2 with
        | .ok x => match fin s c q x with
          | .done u => u
          | _ => s
        | .error _ => s)
      justNext ∧
    Traps (.st w) (fun s c q => match acc s c q with
      | (u, .error (.trap t)) => some (u, t)
      | (_, .ok x) => match fin s c q x with
        | .trap u t => some (u, t)
        | _ => none
      | _ => none)) ∧
  (∀ w : IForm, w.typed = true →
    let va := fun (s : State) (c q : Nat) => readPair s c q w.a + w.imm.signExtend 64
    let count := typedCount w.size w.lane
    let acc := fun (s : State) (c q : Nat) => threadSpans s c q (va s c q) (fun e pa =>
      match pageFmt e.fmt e.geo with
      | none => [(pa, 1)]
      | some f => if storeFmtOk f = false ∨ f.dataEnd < (va s c q).toNat % 65536 + typedBytes f count then [(pa, 1)]
        else [(pa, typedBytes f count)]) (storeNeed s c q) 2
    let fin := fun (s : State) (c q : Nat) (x : Xlated) (f : PageFmt) =>
      let es := (storeLanes w count (readSrc s c q w.d w.dataRegs)).map (encodeLane f w.lane)
      storeFinish (acc s c q).1 c q x (va s c q) (codeBytes f (es.map (·.1)))
        (if x.pte.bidx = 0 then none else some f) (fun _ => ((va s c q).toNat % 65536, count))
        (es.foldl (fun a e => a ||| e.2) 0)
    Completes (.st w)
      (fun s c q => match (acc s c q).2 with
        | .ok x => match pageFmt x.pte.fmt x.pte.geo with
          | some f =>
            (typedFault x.pte (some f) storeFmtOk ((va s c q).toNat % 65536) count 2 (va s c q) x.pa).isNone &&
            (match fin s c q x f with
              | .done _ => true
              | _ => false)
          | none => false
        | .error _ => false)
      (thenNext fun s c q => match (acc s c q).2 with
        | .ok x => match pageFmt x.pte.fmt x.pte.geo with
          | some f => match fin s c q x f with
            | .done u => u
            | _ => s
          | none => s
        | .error _ => s)
      justNext ∧
    Traps (.st w) (fun s c q => match acc s c q with
      | (u, .error (.trap t)) => some (u, t)
      | (u, .ok x) =>
        let fm := pageFmt x.pte.fmt x.pte.geo
        match typedFault x.pte fm storeFmtOk ((va s c q).toNat % 65536) count 2 (va s c q) x.pa, fm with
        | some t, _ => some (u, t)
        | none, some f => match fin s c q x f with
          | .trap u t => some (u, t)
          | _ => none
        | none, none => none
      | _ => none)) ∧
  (∀ (s : State) (c q : Nat) (va : DWord) (n : Nat) (need : Need) (kind : Nat), (s.thread c q).tx = none →
    (∀ u t, checkAligned s (s.agent c) va n need kind = (u, .error t) →
      threadAccess s c q va n need kind = (u, .error (.trap t))) ∧
    (va.toNat % n ≠ 0 → checkAligned s (s.agent c) va n need kind = (s, .error (Trap.at 0x12 n kind va))) ∧
    (va.toNat % n = 0 → checkAligned s (s.agent c) va n need kind =
      checkSpans s (s.agent c) va (fun _ pa => [(pa, n)]) need kind)) ∧
  (∀ (s : State) (ag : Agent) (va : DWord) (spans : Pte → Nat → List (Nat × Nat)) (need : Need) (kind : Nat),
    let r := checkSpans s ag va spans need kind
    let w := translate s ag va.toNat
    (2 ^ 52 ≤ va.toNat → r = (s, .error (Trap.at 0x11 1 kind va))) ∧
    (va.toNat < 2 ^ 52 →
      (∀ cause extra, w.2 = .fail cause extra → r = (w.1, .error (Trap.at cause extra kind va))) ∧
      (∀ e level addr, w.2 = .leaf e level addr →
        let size := 2 ^ levelShift level
        let pa := e.ppn * 2 ^ 16 / size * size + va.toNat % size
        let hole := ∃ x ∈ spans e pa, w.1.hole x.1 x.2 = true
        (w.1.permitted e pa need = false → r = (w.1, .error (Trap.at 0x11 3 kind va pa))) ∧
        (w.1.permitted e pa need = true → hole → r = (w.1, .error (Trap.at 0x11 4 kind va pa))) ∧
        (∀ cause, w.1.permitted e pa need = true → ¬hole → w.1.leaseFault pa e.lease = some cause →
          r = (w.1, .error (Trap.at cause e.lease kind va pa))) ∧
        (w.1.permitted e pa need = true → ¬hole → w.1.leaseFault pa e.lease = none → r.2 = .ok ⟨pa, e⟩)))) ∧
  (∀ (s : State) (ag : Agent) (va fuel level table : Nat),
    let addr := table + 16 * (va / 2 ^ levelShift level % 4096)
    let e : Pte := BitVec.ofNat 128 (leNat (homeRead s addr 16).2.1)
    let w := (walkFrom s va (fuel + 1) level table).2
    (e.v = false → w = .fail 0x10 level) ∧ (e.v = true → s.malformed e level = true → w = .fail 0x11 2) ∧
    (e.v = true → s.malformed e level = false → w = if e.leaf then .leaf e level addr
      else (walkFrom (homeRead s addr 16).1 va fuel (level + 1) (e.ppn * 2 ^ 16)).2) ∧
    (cachedXlate s ag va = none → (translate s ag va).2 = (walkFrom s va 3 1 ag.table).2)) ∧
  (∀ (e : Pte) (f : PageFmt) (ok : PageFmt → Bool) (o count kind pa : Nat) (va : DWord),
    let bad := Trap.at 0x13 (e.fmt + 2 ^ 8 * e.geo) kind va pa
    let size := max 1 (f.ebits / 8)
    let r := typedFault e (some f) ok o count kind va pa
    typedFault e none ok o count kind va pa = some bad ∧ (ok f = false → r = some bad) ∧
    (ok f = true → va.toNat % size ≠ 0 → r = some (Trap.at 0x12 size kind va pa)) ∧
    (ok f = true → va.toNat % size = 0 → f.dataEnd < o + typedBytes f count → r = some bad) ∧
    (ok f = true → va.toNat % size = 0 → o + typedBytes f count ≤ f.dataEnd → r = none))

/-- LDX, STX and LDW (R419, R420, R480). They complete where the placed address is aligned and in range. An STX writes
its bytes into the core that the address names and no other byte of that core's X-buffer, but for bit 15 of a barrier
word, which is reserved and stays 0 (R8, R231); a load delivers what stands there, and reports the poison of the bytes
it touches. Else PLACE, MISALIGNED or XLATE_PERM with reason 5 is raised, in this order (R208, R209), with no effect.
-/
def Obligations.BufferAccessResults : Prop :=
  ∀ w : IForm,
    let n := sizeBytes w.size
    let at' := fun (s : State) (c q : Nat) => xCheck s c w.plc (readWord s c q w.a) w.imm n n
    let wa := fun (s : State) (c q : Nat) => (readWord s c q w.a + w.imm).toNat
    Completes (.ldx w) (fun s c q => (at' s c q).toBool)
      (thenNext fun s c q => match at' s c q with
        | .ok t => loadResult s c q w (loadedValue w (xRead s t.1 t.2 n)) 0
            (if xPoisoned s t.1 t.2 n then some 1 else none) (BitVec.ofNat 64 t.2) 5 0 false
        | .error _ => s)
      (skipTag w.ctl w.d w.dataRegs) ∧
    Completes (.stx w) (fun s c q => (at' s c q).toBool)
      (thenNext fun s c q => match at' s c q with
        | .ok t => xWrite s t.1 t.2 (leBytes (readSrc s c q w.d w.dataRegs) n)
        | .error _ => s)
      justNext ∧
    Completes (.ldw w) (fun s c q => wa s c q % n == 0 && wa s c q + n ≤ 0x300000)
      (thenNext fun s c q => loadResult s c q w (loadedValue w (readBytes (s.block c).wbuf (wa s c q) n)) 0
        (if (s.block c).wpoison.contains (wa s c q / 64) then some 1 else none) (BitVec.ofNat 64 (wa s c q)) 1 0 false)
      (skipTag w.ctl w.d w.dataRegs) ∧
    (∀ (s : State) (c q : Nat) (t : Nat × Nat), at' s c q = .ok t → (s.block? t.1).isSome = true →
      t.2 % n = 0 ∧ t.2 + n ≤ 0x200000 ∧
      let u := xWrite s t.1 t.2 (leBytes (readSrc s c q w.d w.dataRegs) n)
      (SMap.wf (s.block t.1).xbuf = true → ∀ a : Nat, SMap.get (u.block t.1).xbuf a =
        if t.2 ≤ a ∧ a < t.2 + n then
          xByte a (BitVec.ofNat 8 (readSrc s c q w.d w.dataRegs / 2 ^ (8 * (a - t.2))))
        else SMap.get (s.block t.1).xbuf a)) ∧
    (∀ (a : Nat) (b : Byte), (a < 0x1FFF80 ∨ a % 4 ≠ 1 → xByte a b = b) ∧
      (0x1FFF80 ≤ a → a % 4 = 1 → a < 0x200000 → xByte a b = b &&& 0x7F#8)) ∧
    (∀ i ∈ [Instr.ldx w, .stx w], Traps i (fun s c q => match placeWord s c w.plc (readWord s c q w.a) w.imm with
      | none => some (s, Trap.at 0x14 0 5
          ((if w.plc then (readWord s c q w.a &&& 0x1FFFFF#32) + w.imm else readWord s c q w.a + w.imm).setWidth 64))
      | some t =>
        if t.2 % n ≠ 0 then some (s, Trap.at 0x12 n 5 (BitVec.ofNat 64 t.2))
        else if 0x200000 < t.2 + n then some (s, Trap.at 0x11 5 5 (BitVec.ofNat 64 t.2)) else none)) ∧
    Traps (.ldw w) (fun s c q =>
      if wa s c q % n ≠ 0 then some (s, Trap.at 0x12 n 1 (BitVec.ofNat 64 (wa s c q)))
      else if 0x300000 < wa s c q + n then some (s, Trap.at 0x11 5 1 (BitVec.ofNat 64 (wa s c q))) else none)

/-! ## Atomics, reductions, flags, fences and barriers (class 6) -/

/-- ATOM, CAS, ATOMX and RED (R364 to R371, R386, R460). Outside a transaction they complete where the access passes and
the write, where it is a release of pod scope or wider by its own order or by an earlier fence (R219, R220), finds no
failed write before it; a CAS that fails is no release. One step reads the old value at the home and writes the new one,
no other access between; the old value waits under the tag, with a congestion level to come where a slice answered
(R195); a failing CAS and a poisoned or lost element write nothing. RED delivers nothing: it goes to another package as
a posted write, is performed at the home, or waits in an update-only region of the core. Inside a transaction ATOM and
CAS read and write its log (R242); ATOMX is performed at once and RED is forbidden (R243). The first check of R208 that
fails raises its fault, and so does a release that finds a failed write before it, in both cases before the word's own
write. -/
def Obligations.AtomicResults : Prop :=
  (∀ w : FForm,
    let n := atomBytes w
    let va := fun (s : State) (c q : Nat) => readPair s c q w.a
    let acc := fun (s : State) (c q : Nat) => threadAccess s c q (va s c q) n needRW 3
    let rd := fun (s : State) (c q : Nat) (x : Xlated) => atomicRead
      (if orderReleases w.order then releaseActions (acc s c q).1 c q w.scope (w.order == 4) else (acc s c q).1) c q x n
    let ok := fun (new : State → Nat → Nat → Nat → Option Nat) (s : State) (c q : Nat) => match (acc s c q).2 with
      | .ok x =>
        let a := rd s c q x
        ((acc s c q).1.thread c q).tx.isNone &&
          ((!(a.2.poison || a.2.lost.isSome) && (new s c q a.2.old).isNone) ||
            (releaseFails a.1 c q (releaseScope (a.1.thread c q) w) (va s c q) x.pa).isNone)
      | .error _ => false
    let on := fun (new : State → Nat → Nat → Nat → Option Nat) => thenNext fun s c q => match (acc s c q).2 with
      | .ok x =>
        let a := rd s c q x
        let v := match (if a.2.poison || a.2.lost.isSome then none else new s c q a.2.old) with
          | some y =>
            let z := atomicWrite a.1 c x n y (threadWriter c q)
            if (z.thread c q).lazyFence then leaveRecord z c 4 2 x.pa
            else if orderReleases w.order then leaveRecord z c w.scope w.order x.pa else z
          | none => a.1
        let z := if orderAcquires w.order then acquireActions v c w.scope (fun r => r.addr / 8 == x.pa / 8) else v
        atomResult z c q w a.2.old (if a.2.poison then some 0 else none) a.2.lost (va s c q) 3 x.pa
          (paTier x.pa != 3 && a.2.lost.isNone && !a.2.refused)
      | .error _ => s
    let op := fun (s : State) (c q old : Nat) => some (aopValue w.aop w.ty old (readSrc s c q w.b w.ty.regs) 0)
    let swap := fun (s : State) (c q old : Nat) =>
      if old = readSrc s c q w.b w.ty.regs then some (readSrc s c q w.c w.ty.regs) else none
    let log := fun (s : State) (c q : Nat) (x : Xlated) => txRead (acc s c q).1 c q x x.pa n
    let put := fun (new : State → Nat → Nat → Nat → Option Nat) (s : State) (c q : Nat) (x : Xlated) (bs : List Byte) =>
      match new s c q (leNat bs) with
      | some y => txWrite (log s c q x).1 c q x x.pa (leBytes y n)
      | none => ((log s c q x).1, .ok ())
    let okTx := fun (new : State → Nat → Nat → Nat → Option Nat) (s : State) (c q : Nat) => match (acc s c q).2 with
      | .ok x => ((acc s c q).1.thread c q).tx.isSome && (match (log s c q x).2 with
        | .ok bs => (put new s c q x bs).2.toBool
        | .error _ => false)
      | .error _ => false
    let onTx := fun (new : State → Nat → Nat → Nat → Option Nat) => thenNext fun s c q => match (acc s c q).2 with
      | .ok x => match (log s c q x).2 with
        | .ok bs => atomResult (put new s c q x bs).1 c q w (leNat bs) none none (va s c q) 3 x.pa
          (txSliceAnswers (acc s c q).1 c q x x.pa n)
        | .error _ => s
      | .error _ => s
    let stop := fun (new : State → Nat → Nat → Nat → Option Nat) (s : State) (c q : Nat) => match acc s c q with
      | (u, .error (.trap t)) => some (u, t)
      | (u, .ok x) =>
        let a := rd s c q x
        if (u.thread c q).tx.isSome || (!(a.2.poison || a.2.lost.isSome) && (new s c q a.2.old).isNone) then none
        else (releaseFails a.1 c q (releaseScope (a.1.thread c q) w) (va s c q) x.pa).map (fun t => (a.1, t))
      | _ => none
    Completes (.atom w) (ok op) (on op) (skipTag w.ctl w.d w.ty.regs) ∧
    Completes (.cas w) (ok swap) (on swap) (skipTag w.ctl w.d w.ty.regs) ∧
    Completes (.atom w) (okTx op) (onTx op) (skipTag w.ctl w.d w.ty.regs) ∧
    Completes (.cas w) (okTx swap) (onTx swap) (skipTag w.ctl w.d w.ty.regs) ∧
    Traps (.atom w) (stop op) ∧ Traps (.cas w) (stop swap)) ∧
  (∀ w : FForm,
    let n := atomBytes w
    let at' := fun (s : State) (c q : Nat) => xCheck s c (w.sub.getLsbD 0) (readWord s c q w.a) 0 n n
    let sc := Nat.min w.scope 4
    let rel := fun (s : State) (c q : Nat) =>
      if (s.thread c q).lazyFence then releaseActions s c q 4 true
      else if orderReleases w.order then releaseActions s c q sc true else s
    Completes (.atomx w)
      (fun s c q => match at' s c q with
        | .ok t =>
          let u := rel s c q
          (w.aop == 9 && leNat (xRead u t.1 t.2 n) != readSrc s c q w.b w.ty.regs && !xPoisoned u t.1 t.2 n) ||
            (releaseFails u c q (u.thread c q).relFence (BitVec.ofNat 64 t.2) 0).isNone
        | .error _ => false)
      (thenNext fun s c q => match at' s c q with
        | .ok t =>
          let u := rel s c q
          let old := leNat (xRead u t.1 t.2 n)
          let po := xPoisoned u t.1 t.2 n
          let v := if po then u else xWrite u t.1 t.2 (leBytes
            (aopValue w.aop w.ty old (readSrc s c q w.b w.ty.regs) (readSrc s c q w.c w.ty.regs)) n)
          let z := if orderAcquires w.order then acquireActions v c sc (fun _ => false) else v
          atomResult z c q w old (if po then some 1 else none) none (BitVec.ofNat 64 t.2) 5 0 false
        | .error _ => s)
      (skipTag w.ctl w.d w.ty.regs) ∧
    Traps (.atomx w) (fun s c q => match at' s c q with
      | .error t => some (s, t)
      | .ok t =>
        let u := rel s c q
        if w.aop == 9 && leNat (xRead u t.1 t.2 n) != readSrc s c q w.b w.ty.regs && !xPoisoned u t.1 t.2 n then none
        else (releaseFails u c q (u.thread c q).relFence (BitVec.ofNat 64 t.2) 0).map (fun f => (u, f)))) ∧
  (∀ w : FForm,
    let n := atomBytes w
    let va := fun (s : State) (c q : Nat) => readPair s c q w.a
    let acc := fun (s : State) (c q : Nat) => threadAccess s c q (va s c q) n needRW 3
    let rel := orderReleases w.order
    let ready := fun (s : State) (c q : Nat) =>
      if rel then mergeUpdates (releaseActions (acc s c q).1 c q w.scope false) c (fun _ => true) else (acc s c q).1
    Completes (.red w)
      (fun s c q => match (acc s c q).2 with
        | .ok x => !rel || (releaseFails (ready s c q) c q w.scope (va s c q) x.pa).isNone
        | .error _ => false)
      (thenNext fun s c q => match (acc s c q).2 with
        | .ok x =>
          let b := readSrc s c q w.b w.ty.regs
          let u := ready s c q
          let record := fun (s : State) => if rel then leaveRecord s c w.scope w.order x.pa else s
          if u.remote x.pa then record (post u c q x (va s c q) x.pa (leBytes b n) (some (w.aop, w.ty)))
          else if rel ∨ x.pte.cpol ≠ 0 then record (redAtHome u c q x w.aop w.ty b)
          else bufferDelta u c ⟨x.pa, w.aop, w.ty, BitVec.ofNat 64 b, x.pte.grain, false⟩
        | .error _ => s)
      justNext ∧
    Traps (.red w) (fun s c q => match acc s c q with
      | (u, .error (.trap t)) => some (u, t)
      | (_, .ok x) => if rel then (releaseFails (ready s c q) c q w.scope (va s c q) x.pa).map (fun t => (ready s c q, t))
        else none
      | _ => none)) ∧
  (∀ w : FForm, txForbidden (.red w) = true ∧ txForbidden (.atomx w) = false) ∧
  (∀ (t : Ty) (old b c : Nat), t ≠ .f32 →
    aopValue 0 t old b c = (old + b) % 2 ^ t.bits ∧ aopValue 6 t old b c = b ∧
    aopValue 7 t old b c = (if b ≤ old then 0 else old + 1) ∧
    aopValue 8 t old b c = (if old = 0 ∨ b < old then b else old - 1) ∧
    aopValue 9 t old b c = (if old = b then c else old))

/-- FENCE, SETF, WAITF and WAITW (R407, R470, R494). A fence releases, then acquires; that its acquire drains every
record is log entry 23 (DEDUCED). SETF makes a range release and writes the flag, unless the release has failed, the
flag's member is lost or refuses (log entry 23), or an .ADD meets poison; SETF.ST writes a poisoned flag. At cohort and
package scope SETF, and a fence that is not .SC, drain nothing yet: SETF leaves a record of its range, the fence leaves
one to the thread's later atomic writes (R225, R226). Where a range acquire meets records, it writes back only what lies
in its range and in theirs, and a record stays while its core still holds other bytes that it covers. A flag wait
whose condition holds is an acquire read and goes on; one whose condition fails holds, and the event FLAG_WAIT_SATISFIED
translates and reads the flag of WAITF, or the word of WAITW, again (R205). -/
def Obligations.FenceAndFlagResults : Prop :=
  (∀ w : FForm, Completes (.fence w) always
    (thenNext fun s c q =>
      let u := if orderReleases w.order then
          (releaseActions s c q w.scope (w.order == 4)).modThread c q (fun t => { t with
            relFence := Nat.max t.relFence w.scope
            lazyFence := t.lazyFence || ((w.scope == 3 || w.scope == 4) && w.order != 4) })
        else s
      if orderAcquires w.order then acquireActions u c w.scope (fun _ => true) else u) justNext) ∧
  (∀ w : FForm,
    let va := fun (s : State) (c q : Nat) => readPair s c q w.a
    let acc := fun (s : State) (c q : Nat) => threadAccess s c q (va s c q) 4 needRW 3
    let spans := fun (s : State) (c q : Nat) =>
      let rg := readSrc s c q w.c 4
      rangeSpans (acc s c q).1 ((acc s c q).1.agent c) (rg % 2 ^ 64) (rg / 2 ^ 64 % 2 ^ 32)
    let done := fun (s : State) (c q : Nat) => releaseActions (acc s c q).1 c q w.scope false (inSpans (spans s c q))
    let rd := fun (s : State) (c q : Nat) (x : Xlated) => flagRead (done s c q) c q x 4
    let ok := fun (add : Bool) (s : State) (c q : Nat) => match (acc s c q).2 with
      | .ok x => (releaseFails (done s c q) c q w.scope (va s c q) x.pa).isNone && (rd s c q x).2.lost.isNone &&
          !(rd s c q x).2.refused && !(add && (rd s c q x).2.poison)
      | .error _ => false
    let on := fun (new : Nat → Nat → Nat) => thenNext fun s c q => match (acc s c q).2 with
      | .ok x =>
        leaveRecord (atomicWrite (rd s c q x).1 c x 4 (new (rd s c q x).2.old (readWord s c q w.b).toNat)
          (threadWriter c q)) c w.scope 2 x.pa (some (spans s c q))
      | .error _ => s
    Completes (.setfSt w) (ok false) (on fun _ b => b) justNext ∧
    Completes (.setfAdd w) (ok true) (on fun old b => (old + b) % 2 ^ 32) justNext) ∧
  (∀ w : FForm,
    let poll := fun (n : Nat) (wt : State → Nat → Nat → Wait) (holds : State → Nat → Nat → Nat → Bool)
        (range : State → State → Nat → Nat → Nat → Bool) =>
      let acc := fun (s : State) (c q : Nat) => threadAccess s c q (readPair s c q w.a) n needR 3
      let rd := fun (s : State) (c q : Nat) (x : Xlated) => flagRead (acc s c q).1 c q x n
      ((fun (s : State) (c q : Nat) => match (acc s c q).2 with
          | .ok x => !((rd s c q x).2.poison || (rd s c q x).2.lost.isSome)
          | .error _ => false),
        (fun (s : State) (c q : Nat) => match (acc s c q).2 with
          | .ok x =>
            if holds s c q (rd s c q x).2.old then
              completeWord (acquireActions (rd s c q x).1 c w.scope (fun r => r.addr / 8 == x.pa / 8)
                (range s (rd s c q x).1 c q)) c q
            else (rd s c q x).1.modThread c q (fun t => { t with wait := wt s c q })
          | .error _ => s))
    let f := poll 4
      (fun s c q => .flag (readPair s c q w.a) w.aop (readWord s c q w.b) w.scope
        (readSrc s c q w.c 4 % 2 ^ 64) (readSrc s c q w.c 4 / 2 ^ 64 % 2 ^ 32))
      (fun s c q v => let target := (readWord s c q w.b).toNat
        if w.aop = 0 then target ≤ v else if w.aop = 1 then v = target else v ≠ target)
      (fun s u c q => inSpans (rangeSpans u (u.agent c) (readSrc s c q w.c 4 % 2 ^ 64)
        (readSrc s c q w.c 4 / 2 ^ 64 % 2 ^ 32)))
    let g := poll 8 (fun s c q => .word (readPair s c q w.a) w.scope) (fun _ _ _ v => v.testBit 63)
      (fun _ _ _ _ _ => true)
    Completes (.waitf w) f.1 f.2 justNext ∧ Completes (.waitw w) g.1 g.2 justNext) ∧
  (∀ (s : State) (c q cond sc base len : Nat) (va : DWord) (target : Word) (x : Xlated),
    (s.thread c q).live = true → (s.thread c q).susp = .none →
    let u := s.modThread c q (fun t => { t with wait := .none })
    let next := fun (wt : Wait) (n : Nat) (holds : Nat → Bool) (range : State → Nat → Bool) =>
      (s.thread c q).wait = wt → (threadAccess u c q va n needR 3).2 = .ok x →
      let a := flagRead (threadAccess u c q va n needR 3).1 c q x n
      (a.2.poison = false → a.2.lost = none → exec (.flagWaitSatisfied c q) s = .next
        (if holds a.2.old then completeWord (acquireActions a.1 c sc (fun r => r.addr / 8 == x.pa / 8) (range a.1)) c q
         else a.1.modThread c q (fun t => { t with wait := wt }))) ∧
      (a.2.poison = true ∨ a.2.lost ≠ none →
        exec (.flagWaitSatisfied c q) s = .next (raiseFault a.1 c q (Trap.at cPoison 0 3 va x.pa)))
    next (.flag va cond target sc base len) 4
      (fun v => if cond = 0 then target.toNat ≤ v else if cond = 1 then v = target.toNat else v ≠ target.toNat)
      (fun y => inSpans (rangeSpans y (y.agent c) base len)) ∧
    next (.word va sc) 8 (fun v => v.testBit 63) (fun _ _ => true)) ∧
  (∀ (s : State) (p : ReleaseRec → Bool) (range : Nat → Bool),
    let u := drainRecords s p range
    (∀ r, r ∈ u.releases ↔ r ∈ s.releases ∧
      (p r = true → u.owes r.core (fun k => !range k && r.covers k) = true)) ∧
    (s.cores.all (fun r => r.updates.isEmpty) = true → ∀ c k : Nat,
      (∀ r ∈ s.releases, p r = true → r.covers k = true → range k = false) → u.l1Sector c k = s.l1Sector c k))

/-- BAR (R372) and the barrier word (R231, R232). .ARV goes on, .WT and .SYNC hold at their word; an arrival is queued
until every thread of the clock has issued, the thread's posted writes being home first: the model's reading of R234,
log entry 23 (DEDUCED). The arrivals of a clock are then applied in slot order: each counts, or completes the phase, and
one that completes it lets its own SYNC go on. At the clock's end, with all arrivals applied, every waiter goes on whose
PHASE differs from its operand, and no other. -/
def Obligations.BarrierResults : Prop :=
  (∀ w : FForm,
    let n := w.a.code.toNat
    let ph := fun (s : State) (c q : Nat) => (readWord s c q w.b).getLsbD 0
    let queue := fun (s : State) (c q : Nat) (x : Option Bool) =>
      (flushPosted s c q).modBlock c (fun b => { b with arrivals := b.arrivals ++ [(q, n, x)] })
    let hold := fun (u s : State) (c q : Nat) => u.modThread c q (fun t => { t with wait := .barrier n (ph s c q) })
    Completes (.barArv w) always (thenNext fun s c q => queue s c q none) justNext ∧
    Completes (.barWt w) always (fun s c q => hold s s c q) justNext ∧
    Completes (.barSync w) always (fun s c q => hold (queue s c q (some (ph s c q))) s c q) justNext) ∧
  (∀ v : Word,
    let r := arriveWord v
    let arrived := (v.extractLsb' 0 15).toNat + 1
    let expect := max (v.extractLsb' 16 15).toNat 1
    r.1.extractLsb' 16 15 = v.extractLsb' 16 15 ∧ r.2 = decide (expect ≤ arrived) ∧
    (expect ≤ arrived → r.1.getLsbD 31 = !v.getLsbD 31 ∧ r.1.extractLsb' 0 15 = 0#15) ∧
    (arrived < expect → r.1.getLsbD 31 = v.getLsbD 31 ∧ (r.1.extractLsb' 0 15).toNat = arrived)) ∧
  (∀ (s : State) (c n : Nat) (bySeq : Bool), (s.block? c).isSome = true → n < 32 → SMap.wf (s.block c).xbuf = true →
    barrierWord (arrive s c n bySeq) c n = (arriveWord (barrierWord s c n)).1 &&& 0xFFFF7FFF#32 ∧
    (∀ m, m < 32 → m ≠ n → barrierWord (arrive s c n bySeq) c m = barrierWord s c m) ∧
    (arrive s c n bySeq).threads = s.threads ∧ (arrive s c n bySeq).mem = s.mem) ∧
  (∀ (s : State) (c : Nat) (x : Nat × Nat × Option Bool) (r : List (Nat × Nat × Option Bool)),
    sortBy (fun x y => x.1 ≤ y.1) (s.block c).arrivals = x :: r →
    settleArrivals s c = ((x :: r).foldl (applyArrival c) s).modBlock c (fun b => { b with arrivals := [] })) ∧
  (∀ (s : State) (c q n : Nat) (ph : Bool),
    let u := arrive s c n false
    applyArrival c s (q, n, none) = u ∧
    ((u.thread c q).live = true → (u.thread c q).wait = .barrier n ph →
      applyArrival c s (q, n, some ph) =
        if (arriveWord (barrierWord s c n)).2 = true then
          completeWord (u.modThread c q (fun t => { t with wait := .none })) c q
        else u)) ∧
  (∀ s : State,
    let passes := fun (t : Thread) => t.live && match t.wait with
      | .barrier n ph => barrierPhase s t.core n != ph
      | _ => false
    releaseBarriers s = (s.threads.filter passes).foldl (fun u t =>
      completeWord (u.modThread t.core t.slot (fun t => { t with wait := .none })) t.core t.slot) s ∧
    ((s.threads.map (fun t => (t.core, t.slot))).Nodup → ∀ t ∈ s.threads,
      (releaseBarriers s).thread t.core t.slot = if passes t
        then { (endWord 5 { t with wait := .none }).1 with pc := (endWord 5 { t with wait := .none }).2 } else t))

/-! ## Transactions (class 7) -/

/-- TXB, TXE, TXA, TXQ and the commit (R238 to R252, R492), each with the next state that it answers. TXB nests, or
opens a log, with the lock read where it names one, aborting with LOCKED where the lock is taken; with no slot free it
aborts with NO_SLOT, and at depth 7 with ILLEGAL; under a false guard it goes to its exit word. TXE closes a nested
level, starts the commit at depth 1, and reports NONE where no transaction is live. TXA aborts with EXPLICIT, or does
nothing outside a transaction. TX_COMMIT obtains every grain of its entries, compares every entry read, LOCKED deciding
where the lock was taken (R253), else the last that fails (log entry 81, DESIGN CHOICE), then lands every write or none,
each with its mark, and answers under the TXE's tag; for a thread that waits for no commit it changes nothing. The
branch of a TXB under a false guard, what RD, WR and DEPTH of a status count, and release records of 8 bytes are log
entry 22 (DEDUCED). -/
def Obligations.TransactionResults : Prop :=
  (∀ w : IForm,
    let log := fun (s : State) (c q depth : Nat) =>
      let t := s.thread c q
      (⟨depth, w.mod9.toNat % 8, t.pc + w.imm.signExtend 64, t.stack.length, t.loops.length, none, 0, [], []⟩ : Tx)
    let opened := fun (s : State) (c q : Nat) =>
      if s.hasTx c then putTx s c q (log s c q 1) else openRegion (putTx s c q (log s c q 1)) c
    let free := fun (s : State) (c : Nat) => decide (slotsInUse s c < Config.txSlots)
    let nest := fun (s : State) (c q : Nat) => match (s.thread c q).tx with
      | some tx => if tx.depth = 7 then abortTx s c q txIllegal 0 else completeWord (putTx s c q { tx with depth := tx.depth + 1 }) c q
      | none => s
    let skip : Effect := fun s c q => branchTo s c q ((s.thread c q).pc + w.imm.signExtend 64)
    Completes (.txb w) (fun s c q => (s.thread c q).tx.isSome) nest skip ∧
    Completes (.txb w) (fun s c q => (s.thread c q).tx.isNone && !free s c)
      (fun s c q => abortFrom s c q (log s c q 0) txNoSlot 0) skip ∧
    (w.a = .zero → Completes (.txb w) (fun s c q => (s.thread c q).tx.isNone && free s c) (thenNext opened) skip) ∧
    (let acc := fun (s : State) (c q : Nat) =>
      threadAccess (opened s c q) c q (readPair (opened s c q) c q w.a) 4 needR 3
     let rd := fun (s : State) (c q : Nat) (x : Xlated) => txRead (acc s c q).1 c q x x.pa 4
     w.a ≠ .zero → Completes (.txb w)
      (fun s c q => (s.thread c q).tx.isNone && free s c && match (acc s c q).2 with
        | .ok x => (rd s c q x).2.toBool
        | .error _ => false)
      (fun s c q => match (acc s c q).2 with
        | .ok x => match (rd s c q x).2 with
          | .ok bs =>
            let v := if txSliceAnswers (acc s c q).1 c q x x.pa 4 then sliceAnswer (rd s c q x).1 c q else (rd s c q x).1
            let u := putTx v c q { txOf v c q with lockSector := some (x.pa / 32), lockAddr := x.pa }
            if leNat bs = 0 then completeWord u c q else abortTx u c q txLocked 0
          | .error _ => s
        | .error _ => s) skip) ∧
    Completes (.txa w) always
      (fun s c q => if (s.thread c q).tx.isSome then abortTx s c q txExplicit (w.imm.toNat % 256) else completeWord s c q)
      justNext) ∧
  (∀ w : FForm,
    Completes (.txe w) always
      (fun s c q => match (s.thread c q).tx with
        | none => completeWord (deliverTxe s c q w (s.thread c q).pc false (BitVec.ofNat 32 txNone)) c q
        | some tx =>
          if 1 < tx.depth then
            completeWord (deliverTxe (putTx s c q { tx with depth := tx.depth - 1 }) c q w (s.thread c q).pc true
              (txStatus tx.reads.length tx.writes.length (tx.depth - 1) 0 0)) c q
          else (s.modThread c q (fun t => { t with wait := .commit w })).post (.txCommit c q))
      justNext ∧
    Completes (.txq w) always
      (putTag w.ctl w.d 1 (fun s c q => ((match (s.thread c q).tx with
        | some tx => txStatus tx.reads.length tx.writes.length tx.depth 0 0
        | none => BitVec.ofNat 32 txNone).toNat, 0)))
      (skipTag w.ctl w.d 1)) ∧
  (∀ (s : State) (c q : Nat) (w : FForm) (tx : Tx), (s.thread c q).wait = .commit w → (s.thread c q).tx = some tx →
    let got := fun (s : State) (l : List (Nat × Nat)) => l.foldl (fun s e => obtain s (32 * e.1) 32 e.2) s
    let o := got (got s (tx.reads.map (fun e => (e.sector, e.grain)))) (tx.writes.map (fun e => (e.sector, e.grain)))
    let put := dropWritten (tx.writes.foldl (commitEntry (threadWriter c q)) (releaseActions o c q tx.scope false)) c tx
    let landed := acquireActions (commitRecords put c tx) c tx.scope
      (fun r => tx.reads.any (fun e => e.sector == r.addr / 32))
    let answer := fun (u : State) (ok : Bool) (st : Word) =>
      let v := if tx.reads = [] ∧ tx.writes = [] then u else sliceAnswer u c q
      completeWord (deliverTxe (v.modThread c q (fun t => { t with tx := none, wait := .none })) c q w
        (s.thread c q).pc ok st) c q
    exec (.txCommit c q) s = .next (match txFails o tx with
      | none => answer landed true (txStatus tx.reads.length tx.writes.length 0 0 0)
      | some k => answer o false
          (txStatus tx.reads.length tx.writes.length 1 (if k = txPoison then cPoison else 0) k))) ∧
  (∀ (s : State) (c q : Nat), ((∀ w, (s.thread c q).wait ≠ .commit w) ∨ (s.thread c q).tx = none) →
    exec (.txCommit c q) s = .next s) ∧
  (∀ (s : State) (tx : Tx),
    let bad := fun (e : TxRead) => e.poison || s.poison.contains e.sector
    let changed := fun (e : TxRead) => sectorOfBytes (memBytes s (32 * e.sector) 32) != e.data
    let locked := fun (e : TxRead) =>
      !bad e && changed e && tx.lockSector == some e.sector && leNat (memBytes s tx.lockAddr 4) != 0
    (txFails s tx = none ↔ ∀ e ∈ tx.reads, bad e = false ∧ changed e = false) ∧
    ((∃ e ∈ tx.reads, locked e = true) → txFails s tx = some txLocked) ∧
    ((∀ e ∈ tx.reads, locked e = false) → ∀ (r : List TxRead) (e : TxRead), tx.reads = r ++ [e] → txFails s tx =
      if bad e then some txPoison else if changed e then some txConflict else txFails s { tx with reads := r })) ∧
  (∀ (s : State) (who : Nat) (e : TxWrite),
    let t := commitEntry who s e
    t.mem = (memWriteSector s e.sector e.mask e.data).mem ∧ t.cores = (memWriteSector s e.sector e.mask e.data).cores ∧
    (e.poison = true → e.sector ∈ t.poison) ∧ (e.poison = false → e.mask = BitVec.allOnes 32 → e.sector ∉ t.poison))

/-! ## Engines (class 8) -/

/-- What TCPY, TCPY.RESUME, PFETCH and COLL do at issue (R281, R390, R449, R484): the structures are checked and read,
and one more command stands at the end of the queue, with what they hold. They complete where the block has fewer open
commands than the engines take and no structure faults. -/
def Obligations.EngineIssueResults : Prop :=
  (∀ w : FForm,
    let room := fun (s : State) (c : Nat) => decide (openCopies s c < Config.maxCopies)
    let chk := fun (resume : Bool) (s : State) (c q : Nat) => issueChecks (flushPosted s c q) c
      ([⟨readPair s c q w.a, 128, 64, needR, 1⟩, ⟨readPair s c q w.b, 128, 64, needR, 1⟩] ++
        cwCheck (cwOf s c q w.c) (if resume then needRW else needW))
    let descs := fun (resume : Bool) (s : State) (c q : Nat) (xs : List (Xlated × Nat × DWord)) =>
      issueReads (chk resume s c q).1 c q 1 (xs.take 4)
    let word := fun (resume : Bool) (s : State) (c q : Nat) (xs : List (Xlated × Nat × DWord)) =>
      issueReads (descs resume s c q xs).1 c q 2 (if resume then xs.drop 4 else [])
    let ok := fun (resume : Bool) (s : State) (c q : Nat) => room s c && match (chk resume s c q).2 with
      | .ok xs => (descs resume s c q xs).2.2.isNone && (word resume s c q xs).2.2.isNone
      | .error _ => false
    let on := fun (resume : Bool) => thenNext fun s c q => match (chk resume s c q).2 with
      | .ok xs =>
        let d := (descs resume s c q xs).2.1
        let v := leNat (word resume s c q xs).2.1
        newCopy (word resume s c q xs).1 c q .tcpy (readPair s c q w.a) (parseDesc (leNat (d.take 128)))
          (parseDesc (leNat (d.drop 128))) none (cwOf s c q w.c) (FForm.arvOf w)
          (if resume && v.testBit 63 then some (v % 8, v / 2 ^ 24 % 2 ^ 39) else none)
      | .error _ => s
    Completes (.tcpy w) (ok false) (on false) justNext ∧
    Completes (.tcpyResume w) (ok true) (on true) justNext) ∧
  (∀ w : FForm,
    let chk := fun (size : Nat) (s : State) (c q : Nat) => issueChecks (flushPosted s c q) c
      ([⟨readPair s c q w.a, size, 64, needR, 1⟩] ++ cwCheck (cwOf s c q w.b) needW)
    let room := fun (s : State) (c : Nat) => decide (openCopies s c < Config.maxCopies)
    Completes (.pfetch w)
      (fun s c q => room s c && match (chk 128 s c q).2 with
        | .ok xs => (issueReads (chk 128 s c q).1 c q 1 (xs.take 2)).2.2.isNone
        | .error _ => false)
      (thenNext fun s c q => match (chk 128 s c q).2 with
        | .ok xs =>
          let d := issueReads (chk 128 s c q).1 c q 1 (xs.take 2)
          newCopy d.1 c q .pfetch (readPair s c q w.a) (parseDesc (leNat d.2.1)) TensorDesc.none none (cwOf s c q w.b)
            (FForm.arvOf w) none
        | .error _ => s) justNext ∧
    (let recVa := fun (s : State) (c q : Nat) => readPair s c q w.a
    let cws := fun (s : State) (c q : Nat) => cwCheck (cwOf s c q w.b) needW
    let chk1 := fun (s : State) (c q : Nat) => issueXlate (flushPosted s c q) c [⟨recVa s c q, 64, 64, needR, 1⟩]
    let rec' := fun (s : State) (c q : Nat) (xs : List (Xlated × Nat × DWord)) => issueReads (chk1 s c q).1 c q 1 xs
    let chk2 := fun (s : State) (c q : Nat) (xs : List (Xlated × Nat × DWord)) =>
      issueChecks (rec' s c q xs).1 c [⟨BitVec.ofNat 64 (leNat (rec' s c q xs).2.1 / 2 ^ 128), 128, 64, needR, 1⟩]
    let chk3 := fun (s : State) (c q : Nat) (xs : List (Xlated × Nat × DWord)) =>
      issueXlate (chk2 s c q xs).1 c (cws s c q)
    let desc := fun (s : State) (c q : Nat) (xs ys : List (Xlated × Nat × DWord)) =>
      issueReads (chk3 s c q xs).1 c q 1 ys
    Completes (.coll w)
      (fun s c q => room s c && (misaligned (⟨recVa s c q, 64, 64, needR, 1⟩ :: cws s c q)).isNone &&
        match (chk1 s c q).2 with
        | .ok xs =>
          let n := (parseColl (leNat (rec' s c q xs).2.1)).n
          decide (2 ≤ n) && decide (n ≤ s.live.length) && (rec' s c q xs).2.2.isNone && (chk3 s c q xs).2.toBool &&
            match (chk2 s c q xs).2 with
            | .ok ys => (desc s c q xs ys).2.2.isNone
            | .error _ => false
        | .error _ => false)
      (thenNext fun s c q => match (chk1 s c q).2 with
        | .ok xs => match (chk2 s c q xs).2 with
          | .ok ys => newCopy (desc s c q xs ys).1 c q .coll (recVa s c q)
              (parseDesc (leNat (desc s c q xs ys).2.1)) TensorDesc.none (some (parseColl (leNat (rec' s c q xs).2.1)))
              (cwOf s c q w.b) (FForm.arvOf w) none
          | .error _ => s
        | .error _ => s) justNext)) ∧
  (∀ (s : State) (c q : Nat) (kind : CopyKind) (desc : DWord) (src dst : TensorDesc) (coll : Option CollRec)
    (cw : Option DWord) (arv : Option Nat) (res : Option (Nat × Nat)),
    let t := newCopy s c q kind desc src dst coll cw arv res
    SameMemory s t ∧ t.threads = s.threads ∧ t.blocks = s.blocks ∧ t.nextCopy = s.nextCopy + 1 ∧
    ∃ k, t.copies = s.copies ++ [k] ∧ k.id = s.nextCopy ∧ k.src = src ∧ k.dst = dst ∧ k.cw = cw ∧ k.arv = arv ∧
      k.pos = 0 ∧ k.ended = none ∧ k.batch = none)

/-- TSEAL, TWAIT and EMIT (R235, R395, R396, R490, R491). TSEAL gives the thread's open commands its batch number, which
counts up to 0xFFFFFFFE and starts again. TWAIT goes on once every command of the awaited batches has been reported,
else holds. EMIT to a full queue clears its predicate and writes nothing else; else the record is copied, RESV and TAIL
go up by one, and the predicate is set. The slices that answer it bring a congestion level (R195, log entry 76). A
sector of a record kept in this package takes the marks of the X-buffer bytes that it receives, and no other (R396). At
pod scope or wider a set release latch takes the word to RELEASE_FAILED before it reserves anything (R292). That the
queue descriptor and its counters are reached by the record's pod physical address is log entry 32 (DEDUCED). -/
def Obligations.BatchAndEmitResults : Prop :=
  (∀ w : FForm,
    Completes (.tseal w) always
      (thenNext fun s c q =>
        let n := (s.thread c q).batch
        ({ s with copies := s.copies.map (fun (k : CopyCmd) =>
            if k.block = some (c, q) ∧ k.batch = none then { k with batch := some n } else k) } : State).modThread c q
          (fun t => { t with batch := if n = 0xFFFFFFFE#32 then 0 else n + 1 })) justNext ∧
    Completes (.twait w) always
      (fun s c q =>
        let n := readWord s c q w.a
        if s.copies.all (fun (k : CopyCmd) => !k.covered c q n || k.reported) then completeWord (finishBatch s c q n) c q
        else s.modThread c q (fun t => { t with wait := .batch n })) justNext) ∧
  (∀ w : FForm,
    let xb := fun (s : State) (c q : Nat) => (readWord s c q w.b).toNat
    let tgt := fun (s : State) (c q : Nat) => emitTarget (sliceAnswer s c q) c (readWord s c q w.a).toNat
    let wp := fun (s : State) (c q n : Nat) => (tgt s c q).1.wpAddr ((tgt s c q).1.block c).route n
    let ring := fun (s : State) (c q n : Nat) => readRing (tgt s c q).1 (wp s c q n)
    let chk := fun (s : State) (c q n : Nat) => ringCheck (ring s c q n).1 c (ring s c q n).2
    let scope := fun (s : State) (c q n : Nat) => bits (physRead (ring s c q n).1 (wp s c q n) 4).2.1 14 12
    let full := fun (g : Ring) => decide (2 ^ g.capLog ≤ (g.resv + 2 ^ 32 - g.head) % 2 ^ 32)
    let slot := fun (g : Ring) => g.resv % 2 ^ g.capLog * 2 ^ g.rsLog
    let fits := fun (s : State) (c q n : Nat) => (ring s c q n).2.thresh != 0 && xb s c q % 16 == 0 &&
      decide (xb s c q + 2 ^ (ring s c q n).2.rsLog ≤ 0x200000)
    (∀ (s : State) (c q n p : Nat) (x : Xlated), s.actor = .party c [q] → mayIssue (.emit w) s c q = true →
      guardOn (.emit w) s c q = true →
      let u := issueState (.emit w) s c q
      (tgt u c q).2 = some n → fits u c q n = true → (chk u c q n).2 = .ok x → full (ring u c q n).2 = false →
      5 ≤ scope u c q n → ((chk u c q n).1.thread c q).rfLatch = some p →
      exec (.emit w) s = .next (raiseFault (chk u c q n).1 c q (Trap.at cReleaseFailed p 7
        ((ring u c q n).2.base + BitVec.ofNat 64 (slot (ring u c q n).2)) (x.pa + slot (ring u c q n).2)))) ∧
    Completes (.emit w)
      (fun s c q => match (tgt s c q).2 with
        | none => false
        | some n => fits s c q n && (chk s c q n).2.toBool &&
            (full (ring s c q n).2 || decide (scope s c q n < 5) || ((chk s c q n).1.thread c q).rfLatch.isNone))
      (thenNext fun s c q => match (tgt s c q).2 with
        | none => s
        | some n => match (chk s c q n).2 with
          | .error _ => s
          | .ok x =>
            let g := (ring s c q n).2
            let rs := 2 ^ g.rsLog
            if full g then writePred (chk s c q n).1 c q w.prd false
            else
              let u := physWrite (chk s c q n).1 (wp s c q n + 0x140) ((g.resv + 1) % 2 ^ 32) 4
              let z := emitRecord u c q x (x.pa + slot g) (xb s c q) rs (scope s c q n)
              writePred (physWrite z (wp s c q n + 0x144) ((g.resv + 1) % 2 ^ 32) 4) c q w.prd true)
      justNext) ∧
  (∀ (s : State) (c q : Nat) (x : Xlated) (dest xb rs scope : Nat), paTier dest ≠ 3 → s.remote dest = false →
    scope < 6 → x.pte.cpol ≠ 2 →
    let u := homeWrite s (some c) dest (xRead s c xb rs) x.pte.grain
    let z := emitRecord s c q x dest xb rs scope
    (z.mem = u.mem ∧ z.threads = u.threads ∧ z.blocks = u.blocks) ∧
    ∀ k, k ∈ z.poison ↔ k ∈ u.poison ∨ (k ∈ sectorsOf dest rs ∧
      ∃ a, dest ≤ a ∧ a < dest + rs ∧ a / 32 = k ∧ (s.block c).xpoison.contains ((xb + (a - dest)) / 32) = true))

/-- What commands move, and their ends (R233, R234, R236, R281 to R285, R307, R309, R310, R391, R392, R450, R485).
COPY_COMMAND_END of a thread's command drops what its core still holds of the destination, writes the completion word,
marks the command reported and arrives at its barrier; after a failure the bytes beyond POS are free values, and after
an end with OK, with FORMAT, at a bound or with every byte written, or of a command whose format lets it write nothing,
nothing else changes. The timeouts end a command,
once, and only when its time is out: with TIER_TIMEOUT, or with what its checks had to stop it with first (R391, R485),
a TCPY.RESUME at the position that it resumes from. COLL_START of a command whose record does not pass, or whose peers'
fields differ, ends it, and of one that waits behind 64 others only notes that the record has passed; with its peers
matched and its flag reached, every element is reduced and written with its mark, and the command ends with OK, or with
SRC_POISON where it has written poison. In a clock every open command takes one step, in command order, unless it is
held up, a free choice (log entry 28). A step of TCPY reads its unit's elements and stores their bytes: into the
X-buffer along one dimension from the position on and no others, marking the sectors where it has read poison; from the
X-buffer they are the bytes at the source; in memory of this package each element at the address that its check answers.
Then the unit is passed. A step of PFETCH brings each element's line to its slice, but for a page of CPOL 2 (R200), and
changes no byte. -/
def Obligations.CopyEndResults : Prop :=
  (∀ (s : State) (id code cause : Nat) (k : CopyCmd), s.copy? id = some k → k.ended = some (code, cause) →
    k.reported = false →
    let z := undefinedTail (noteRelease s (copyWriter id)) k code cause
    let y := if k.block.isSome then dropForeign (selfInvalidate z k.core true (dstSectors z k)) k.core (dstSectors z k)
      else z
    let u := match k.cw with
      | some a => completionWrite y k.agent a
          (if code ≤ 1 then ((if k.kind = CopyKind.coll then k.pos else k.total) + 31) / 32 else k.pos / 32) cause code
      | none => y
    let v := u.modCopy id (fun k => { k with reported := true })
    exec (.copyCommandEnd id) s = .next (copyInstance (match k.arv with
      | some n => arrive v k.core n false
      | none => v) k) ∧
    (code = codeOk ∨ code = codeFormat ∨ cause = cBound ∨ k.mayWrite = false → z = s) ∧
    (k.kind = .tcpy → 1 ≤ k.dst.es → k.dst.es * k.dst.count ≤ k.pos →
      z.mem = s.mem ∧ z.blocks = s.blocks ∧ z.threads = s.threads)) ∧
  (∀ (s : State) (id : Nat) (k : CopyCmd), s.copy? id = some k →
    let g : CopyCmd := match k.resumeFrom with
      | some (_, p) => { k with resumeFrom := none, pos := 32 * p }
      | none => k
    let due := k.ended.isNone && k.kind != .coll && decide (g.pos < g.total) &&
      (ranOut s g (sideLimit s g g.src) || (k.kind == .tcpy && ranOut s g (sideLimit s g g.dst)))
    let e := if k.begun then (codeTierTimeout, 0) else if k.formatOk = false then (codeFormat, cFormat)
      else if k.resumeFrom.map (·.1) = some 0 then (codeOk, 0) else (codeTierTimeout, 0)
    let limit := if k.src.timeout = 0 then s.msOf 47 32 else k.src.timeout
    let late := k.kind == .coll && k.ended.isNone && decide (k.sinceUs + 1000 * limit ≤ s.timeUs)
    let f := if k.begun then (codeTierTimeout, 0)
      else ((k.coll.bind (collCheck s k)).getD (codeTierTimeout, 0))
    exec (.tierTimeout id) s = .next (if due then endCopy (s.modCopy id CopyCmd.loaded) id e.1 e.2 else s) ∧
    exec (.collTimeout id) s = .next (if late then endCopy s id f.1 f.2 else s)) ∧
  (∀ k : CopyCmd, (∀ c p, k.resumeFrom = some (c, p) → k.loaded.pos = 32 * p) ∧ (k.resumeFrom = none → k.loaded = k)) ∧
  (∀ (s : State) (id : Nat) (k : CopyCmd) (r : CollRec) (peers : List CollPeer), s.copy? id = some k →
    k.ended = none → k.coll = some r →
    let waits := decide (64 ≤ collsRunning s) || s.copies.any (fun (x : CopyCmd) =>
      x.kind == .coll && x.id < k.id && x.ended.isNone && !x.started)
    (r.started = false → k.begun = false → ∀ e, collCheck s k r = some e →
      exec (.collStart id peers) s = .next (endCopy s id e.1 e.2)) ∧
    (r.started = false → k.begun = true ∨ collCheck s k r = none → waits = true →
      let u := s.modCopy id (fun k => { k with begun := true })
      let set := memberSet u r.n
      exec (.collStart id peers) s = .next (if peers.length + 1 = set.length ∧
        peersAgree r k.src.count (setCode set) peers = false then endCopy u id codeFormat cFormat else u)) ∧
    (r.started = true ∨ ((k.begun = true ∨ collCheck s k r = none) ∧ waits = false) →
      let go := fun (x : CopyCmd) => { x with begun := true, coll := x.coll.map (fun r => { r with started := true }) }
      let u := if r.started then s else s.modCopy id go
      let c : CopyCmd := if r.started then k else go k
      let r' := { r with started := true }
      let set := memberSet u r.n
      let f := collFlag u c r'
      let b := collRead f.1 c
      let p := set.findIdx (· == f.1.pkg)
      let others := peers.map (fun x => x.data.map (·.toNat))
      let marks := peers.map (fun x => x.marks)
      (peers.length + 1 = set.length → peersAgree r' k.src.count (setCode set) peers = false →
        exec (.collStart id peers) s = .next (endCopy u id codeFormat cFormat)) ∧
      ∀ own : List Nat × List Nat, peers.length + 1 = set.length →
        peersAgree r' k.src.count (setCode set) peers = true → f.2 = .ok true → b.2 = .ok own →
        let w := collWrite b.1 c ((List.range k.src.count).map
            (collElem r' k.src.count (others.take p ++ [own.1] ++ others.drop p) p))
          (collMarked r' k.src.count (marks.take p ++ [own.2] ++ marks.drop p))
        w.2.2 = none → exec (.collStart id peers) s = .next
          (let z := collMarks w.1 k.src.es w.2.1
           if w.2.1.any (fun x => x.2) then endCopy z id codeSrcPoison cPoison else endCopy z id codeOk 0))) ∧
  (∀ s : State, copiesTurn s = (sortNat ((s.copies.filter (fun k => k.ended.isNone)).map (·.id))).foldl
    (fun s id =>
      let u : State := { s with freeCtr := s.freeCtr + 1 }
      if Config.freeBool s.freeCtr = true then u else copyStep u id) s) ∧
  (∀ (s u : State) (id : Nat) (k : CopyCmd) (data : List (List Byte)) (po : Bool) (leaf : Option Pte),
    s.copy? id = some k → k.ended = none → k.kind = .tcpy → k.begun = true → k.resumeFrom = none → k.pos < k.total → k.src.esz ≤ 4 →
    readUnit s k = (u, .ok (data, po, leaf)) →
    let n := k.unitEnd - k.pos
    let v := copyStep s id
    let passed := (v.copy? id).map (fun x => (x.pos, x.poisoned, x.ended)) = some (k.unitEnd, k.poisoned || po, none)
    (k.dst.space ≠ 0 → passed) ∧
    (k.dst.space = 1 → k.dst.ndim = 1 → k.dst.sizes ≠ [] → k.src.esz = k.dst.esz →
      k.pos % k.dst.es = 0 → (∀ d ∈ data, d.length = k.dst.es) → (u.block? k.core).isSome = true →
      SMap.wf (u.block k.core).xbuf = true →
      let lo := k.dst.base.toNat + k.pos
      v.mem = u.mem ∧ v.threads = u.threads ∧
      (∀ a, SMap.get (v.block k.core).xbuf a = if lo ≤ a ∧ a < lo + n then xByte a (data.flatten.getD (a - lo) 0)
        else SMap.get (u.block k.core).xbuf a) ∧
      (po = true → ∀ i, i * k.dst.es < n → (v.block k.core).xpoison.contains ((lo + i * k.dst.es) / 32) = true)) ∧
    (k.src.space = 1 → k.src.ndim = 1 → k.src.sizes.headD 0 * k.src.es = k.total → k.pos % k.src.es = 0 →
      u = s ∧ data.flatten = xRead s k.core (k.src.base.toNat + k.pos) n) ∧
    (k.dst.space = 0 → (s.copies.map (·.id)).Nodup → ∀ (z : State) (xs : List Xlated), checkUnit u k = (z, .ok xs) →
      (∀ x ∈ xs, x.pte.bidx = 0 ∧ x.pte.cpol ≠ 2 ∧ paTier x.pa ≤ 2 ∧ z.remote x.pa = false) →
      let y := (xs.zip data).foldl (fun s w => homeWrite s none w.1.pa w.2 w.1.pte.grain) z
      passed ∧ v.mem = y.mem ∧ v.cores = y.cores ∧ v.threads = z.threads ∧ v.blocks = z.blocks)) ∧
  (∀ (s u : State) (id : Nat) (k : CopyCmd) (po : Bool), s.copy? id = some k →
    k.ended = none → k.kind = .pfetch → k.begun = true → k.resumeFrom = none → k.pos < k.total →
    (let check := fun (s : State) (e : Nat) => engineCheck s k.agent (k.src.addr e) k.src.es false
     k.unitElems.foldl (fun (acc : Option (State × Bool)) e => acc.bind (fun a => match (check a.1 e).2 with
      | .ok x =>
        let v := if x.pte.cpol = 2 then (check a.1 e).1 else touchLine (check a.1 e).1 x.pa
        if paTier x.pa ≤ 1 ∧ (check a.1 e).1.remote x.pa = false
          then some (v, a.2 || (sectorsOf x.pa k.src.es).any (fun m => v.poison.contains m))
          else none
      | .error _ => none)) (some (s, false))) = some (u, po) →
    let v := copyStep s id
    (v.copy? id).map (fun x => (x.pos, x.poisoned, x.ended)) = some (k.unitEnd, k.poisoned || po, none) ∧
    v.mem = u.mem ∧ v.sliceLines = u.sliceLines ∧ v.foreignWays = u.foreignWays ∧ v.threads = u.threads ∧
    v.blocks = u.blocks)

/-! ## The matrix engine and residues (classes 9 and A) -/

/-- What EPI and FEED threads do with accumulators, tiles, the stream and the bound table (R145, R146, R357 to R361,
R376 to R378, R441, R442, R445, R486, R487). -/
def Obligations.MatrixThreadResults : Prop :=
  (∀ w : FForm,
    let y := fun (s : State) (c q : Nat) =>
      let b := s.block c
      let k := 32 * (readWord s c q w.a).toNat + laneOf q
      (fmtOf w.ty).encode .rne w.sat (elemValue (accElem b w.num5 k) (accExp b w.num5))
    let n := fun (s : State) (c q : Nat) => (readWord s c q w.b).toNat % 4096
    let chk := fun (s : State) (c q : Nat) => boundCheck s (cohortOf c) (n s c q) false ((fmtOf w.ty).decode (y s c q).1)
    let put := fun (s : State) (c q v : Nat) (f : Flags) => allocTag s c q
      { emptyResult w.ctl.alloc.toNat (s.thread c q).pc w.d 1 with
        dst := splitValue (dstRegs (s.thread c q) w.d 1) v, flags := f }
    Completes (.accrd w)
      (fun s c q => decide ((readWord s c q w.a).toNat ≤ 31) && ((s.block c).quad? w.num5).isNone &&
        (!w.sub.getLsbD 10 || (chk s c q).2.1 != .trap))
      (thenNext fun s c q =>
        if w.sub.getLsbD 10 then match (chk s c q).2.1 with
          | .clamp m => put (chk s c q).1 c q
              ((fmtOf w.ty).encode (if m then .rd else .ru) false (clampTarget (chk s c q).2.2 false m)).1 (y s c q).2
          | _ => put (chk s c q).1 c q (y s c q).1 (y s c q).2
        else put s c q (y s c q).1 (y s c q).2)
      (skipTag w.ctl w.d 1)) ∧
  (∀ (w : FForm) (s : State) (c : Nat) (slots : List Nat), s.actor = .party c slots →
    let parts : List (Nat × Nat × FVal) := (actingSlots (.accwr w) s).map (fun q =>
      let u := (commitTags s c q (Ctl.tags w.ctl)).1
      (q, (readWord u c q w.a).toNat, fmtF32.decode (readWord u c q w.b).toNat))
    let rows := parts.filter (fun (x : Nat × Nat × FVal) => x.2.1 < 32)
    let on : Effect := thenNext fun s c q =>
      if (rows.map (·.1)).head? = some q then
        s.modBlock c (fun b => (List.range 32).foldl (fun b i =>
          let ws := rows.filter (fun x => x.2.1 == i)
          if ws.isEmpty then b else writeRow b w.num5 i (ws.map (fun x => (laneOf x.1, x.2.2)))) b)
      else s
    partyOk (.accwr w) (fun s c q => decide ((readWord s c q w.a).toNat ≤ 31)) on justNext c s slots = true →
    exec (.accwr w) s = .next (slots.foldl (memberState (.accwr w) on justNext c) s)) ∧
  (∀ (w : FForm) (s : State) (c : Nat) (slots : List Nat), s.actor = .party c slots →
    let once := fun (i : Instr) (f : State → Nat → Nat → Block → Block) => (thenNext fun s' c q =>
      if (actingSlots i s).head? = some q then s'.modBlock c (f s' c q) else s' : Effect)
    let z := once (.mzero w) (fun s c q b => zeroAcc b w.num5 (some (readWord s c q w.a)))
    let a := once (.mzeroAuto w) (fun _ _ _ b => zeroAcc b w.num5 none)
    let r := once (.mzeroRns w) (fun s c q b => zeroQuad b (s.coreRec c) (w.num5 / 4) (profileOf s c q))
    (partyOk (.mzero w) always z justNext c s slots = true →
      exec (.mzero w) s = .next (slots.foldl (memberState (.mzero w) z justNext c) s)) ∧
    (partyOk (.mzeroAuto w) always a justNext c s slots = true →
      exec (.mzeroAuto w) s = .next (slots.foldl (memberState (.mzeroAuto w) a justNext c) s)) ∧
    (partyOk (.mzeroRns w) (fun s c q => profileOf s c q != 0 && w.num5 % 4 == 0) r justNext c s slots = true →
      exec (.mzeroRns w) s = .next (slots.foldl (memberState (.mzeroRns w) r justNext c) s))) ∧
  (∀ w : FForm,
    let chk := fun (s : State) (c q : Nat) => checkAligned s (s.agent c) (readPair s c q w.b) 8 needW 2
    let on := fun (resume : Bool) => thenNext fun s c q =>
      let u := (chk s c q).1
      let st := (u.block c).seq.state
      let cw := readPair s c q w.b
      if st = .running ∨ (resume = true ∧ st ≠ .stopped) then completionWrite u (u.agent c) cw 0 0 codeAborted
      else if resume then
        let x := readSeqRecord u c
        startSeq x.1 c x.2.1 x.2.2.1 x.2.2.2.1 x.2.2.2.2 cw
      else startSeq u c (readPair s c q w.a) [0, 0, 0, 0]
        ((List.range 32).foldl (fun m n => if barrierPhase u c n then m ||| (1#32 <<< n) else m) 0) 0 cw
    Completes (.mstart w) (fun s c q => (chk s c q).2.toBool) (on false) justNext ∧
    Completes (.mstartResume w) (fun s c q => (chk s c q).2.toBool) (on true) justNext) ∧
  (∀ w : FForm,
    let n := fun (s : State) (c q : Nat) => (readWord s c q w.a).toNat % 4096
    let xb := fun (s : State) (c q : Nat) => (readWord s c q w.b).toNat
    let ok := fun (get : Bool) (s : State) (c q : Nat) =>
      xb s c q % 16 == 0 && decide (xb s c q ≤ 0x1FFFF0) && bndEnabled s && (s.block c).ctx != 0 &&
        (SMap.get s.bndown (n s c q)).toNat == (s.block c).ctx && (get || !xPoisoned s c (xb s c q) 16)
    let old := fun (s : State) (c q : Nat) => homeRead (collectHits s (n s c q) (fun _ => true)) (bndAddr s (n s c q)) 16
    let on := fun (keep : Bool) => thenNext fun s c q =>
      let m := old s c q
      let img := xRead m.1 c (xb s c q) 16
      sliceAnswer (homeWrite m.1 none (bndAddr s (n s c q))
        (if keep then img.take 4 ++ (m.2.1.drop 4).take 4 ++ img.drop 8 else img)) c q
    Completes (.bndset w) (ok false) (on false) justNext ∧
    Completes (.bndsetKh w) (ok false) (on true) justNext ∧
    Completes (.bndsetGet w) (ok true)
      (thenNext fun s c q =>
        let m := old s c q
        let u := xWrite m.1 c (xb s c q) m.2.1
        sliceAnswer
          (if m.2.2 then u.modBlock c (fun b => { b with xpoison := insertNat b.xpoison (xb s c q / 32) }) else u) c q)
      justNext) ∧
  (∀ w : IForm,
    let ctl := fun (s : State) (c q : Nat) => (readPair s c q w.a).toNat / 2 ^ 32
    let fmt := fun (s : State) (c q : Nat) => ctl s c q % 64
    let geo := fun (s : State) (c q : Nat) => ctl s c q / 2 ^ 8 % 16
    let at' := fun (s : State) (c q : Nat) => xCheck s c w.plc ((readPair s c q w.a).setWidth 32) w.imm 64 64
    let ke := fun (s : State) (c q : Nat) => kEff (s.coreRec c) (profileOf s c q)
    Completes (.tld w)
      (fun s c q => tileFmtOk (fmt s c q) &&
        (if fmt s c q = 0x1C then profileOf s c q != 0 && geo s c q == profileOf s c q else geo s c q == 0) &&
        match at' s c q with
        | .ok x => fmt s c q != 0x1C || decide (x.2 + (profileOf s c q + 3) * ke s c q ≤ 0x200000)
        | .error _ => false)
      (thenNext fun s c q => match at' s c q with
        | .ok x =>
          let res := fmt s c q = 0x1C
          let d := profileOf s c q
          let k := ke s c q
          let key := tileRowKey w.d.code.toNat (ctl s c q / 2 ^ 24 % 32)
          let po := xPoisoned s x.1 x.2 64 || (fmt s c q == 0x1C && xPoisoned s x.1 (x.2 + (d + 2) * k) k)
          s.modBlock c (fun b => { b with
            tileRows := SMap.set b.tileRows key (BitVec.ofNat 512 (leNat (xRead s x.1 x.2 64)))
            tileFmt := SMap.set b.tileFmt w.d.code.toNat (BitVec.ofNat 8 (fmt s c q))
            tileGeo := SMap.set b.tileGeo w.d.code.toNat (BitVec.ofNat 8 (geo s c q))
            tileKeff := if res then SMap.set b.tileKeff w.d.code.toNat (BitVec.ofNat 8 k) else b.tileKeff
            tileTags := SMap.set b.tileTags key (BitVec.ofNat 8
              (if res then tagMax ((xRead s x.1 (x.2 + (d + 2) * k) k).map (·.toNat)) else ctl s c q / 2 ^ 16 % 256))
            tilePoison := if po then insertNat b.tilePoison key else b.tilePoison.filter (· != key) })
        | .error _ => s)
      justNext)

/-- The five stream words and the arrival that a stopped sequencer owes (R133, R135, R140, R142, R152, R154, R165,
R233, R425, R431 to R436, R444, R445), the words in the sequencer's turn, the arrival in every state. A word that
waits leaves the sequencer where it is. A chunk of MMAD holds for each element the exact sum of the finite products of
its tile row and panel column, and NaN or an infinity where R127 says; it is added as R125 says, with the exponent
that the loop ends at and each sum rounded once, to nearest even, against that window; other accumulators stay (R124,
R125, R127). That a stream word reads the newest write of a uniform register and of RNSCFG, where R444 allows old or
new, is log entry 12 (DESIGN CHOICE). MMAD.RNS accumulates with the defects that have struck the core (R289; log entry
75). -/
def Obligations.StreamWordResults : Prop :=
  (∀ (s : State) (c : Nat), s.actor = .seq c →
    let b := s.block c
    let q := b.seq
    (∀ w : IForm,
      let plan := if w.mod9.getLsbD 1 then planRns b ((s.coreRec c).struck s.clock) w.d.code.toNat w.a.code.toNat w.imm.toNat
        else planMmad b w.a.code.toNat w.imm.toNat
      (plan = .format → exec (.mmad w) s = .next (seqStop s c codeFormat cFormat)) ∧
      (plan = .poison → exec (.mmad w) s = .next (seqStop s c codeSrcPoison cPoison)) ∧
      (∀ b', plan = .residue b' → exec (.mmad w) s = .next (mmadDone s c b' w 0)) ∧
      (∀ cs, plan = .chunk cs →
        let r := applyChunk (leaveQuad b w.d.code.toNat) w.d.code.toNat cs
        exec (.mmad w) s = .next (mmadDone s c r.1 w r.2))) ∧
    (∀ (t r : Nat) (cs : List Chunk), planMmad b t r = .chunk cs → ∃ fa kc fb,
      tileFormat (SMap.get b.tileFmt t).toNat = some (fa, kc) ∧
      pageFmt (SMap.get b.wfmt (r / 65536)).toNat (SMap.get b.wgeo (r / 65536)).toNat = some fb ∧ cs.length = 1024 ∧
      ∀ i j : Fin 32, ∃ c, cs[32 * i.val + j.val]? = some c ∧ GathersProducts (dotProducts (tileRow b t i fa kc)
        ((List.range kc).map (fun k => regionValue b (r / 65536) fb (8 * (r % 65536) / fb.ebits + kc * j + k)))) c) ∧
    (∀ w : FForm,
      exec (.mzero w) s = .next (seqNext (s.modBlock c (fun b => zeroAcc b w.num5 (some (streamUniform b w.a)))) c 0) ∧
      exec (.mzeroAuto w) s = .next (seqNext (s.modBlock c (fun b => zeroAcc b w.num5 none)) c 0) ∧
      (let d := bits (b.rnsAt s.clock none).toNat 3 0
       exec (.mzeroRns w) s = .next (if d = 0 ∨ w.num5 % 4 ≠ 0 then seqStop s c codeFormat cFormat
         else seqNext (s.modBlock c (fun b => zeroQuad b (s.coreRec c) (w.num5 / 4) d)) c 0)) ∧
      (q.ready ≤ s.clock → exec (.mbarArv w) s = .next (seqNext
        ((arrive s c w.num5 true).modSeq c (fun q => { q with parts := q.parts ||| (1#32 <<< w.num5) })) c 0)) ∧
      exec (.mbarWt w) s = .next
        (if barrierPhase s c w.num5 = q.parity.getLsbD w.num5 then s
         else seqNext (s.modSeq c (fun q => { q with parity := q.parity ^^^ (1#32 <<< w.num5), armed := none })) c 0) ∧
      (q.armed = some w.num5 → exec (.mbarSync w) s = .next (seqWait s c w.num5)) ∧
      (q.armed ≠ some w.num5 → q.ready ≤ s.clock → exec (.mbarSync w) s = .next (seqWait
        (((arrive s c w.num5 true).modSeq c (fun q => { q with parts := q.parts ||| (1#32 <<< w.num5) })).modSeq c
          (fun q => { q with armed := some w.num5 })) c w.num5)) ∧
      (q.ready ≤ s.clock → exec (.mend w) s = .next
        ((seqNext (completionWrite s (s.agent c) q.cw (q.spc + 1).toNat 0 codeOk) c 0).modSeq c
          (fun q => { q with state := .idle, reuse := none })))) ∧
    (∀ w : IForm,
      let i := (w.mod9.extractLsb' 0 2).toNat
      let n := w.imm.toNat / 2 ^ 16
      let v := (if (q.sc.getD i 0).toNat = 0 then (if n = 0 then 65536 else n) else (q.sc.getD i 0).toNat) - 1
      let u := s.modSeq c (fun q => { q with sc := q.sc.set i (BitVec.ofNat 17 v) })
      exec (.mjmp w) s = .next (if 0 < v then u.modSeq c (fun q => { q with
          spc := q.spc + (w.imm.extractLsb' 0 16).signExtend 64, busy := s.clock + 2, line := q.line.map (·.past q.spc) })
        else seqNext u c 0))) ∧
  (∀ (s : State) (c : Nat) (n : Fin 32),
    let q := (s.block c).seq
    exec (.stoppedSeqArrival c n) s = .next
      (match q.owed.find? (fun x => x.1 == n.val && x.2 < s.clock) with
       | some x =>
         let u := s.modSeq c (fun q => { q with owed := q.owed.erase x })
         if q.state = .stopped then arrive u c n.val true else u
       | none => s)) ∧
  (∀ m x e : Int, RoundsWindow m x e) ∧ (∀ ps : List FVal, GathersProducts ps (chunkOf ps)) ∧
  (∀ (b : Block) (n : Nat) (cs : List Chunk), cs.length = 1024 →
    SMap.wf b.accM = true → SMap.wf b.accSt = true → SMap.wf b.accE = true → (∀ c ∈ cs, c.spec ≤ 3) → AddsChunk b n cs)

/-- Residue words (R161, R167 to R174, R463 to R466). RNSCFG.SET of one party takes the word of the lowest slot that a
profile of the core fits, its reserved bits 0 (R8), for every member whose own word is accepted, and clears the counts
(that the other accepted members see the winner's word at once is a choice, log entry 54); GET stores the status record;
RNSCHK delivers the outcome word of an unguarded conversion; RNSF stores the residues and the tag, each at its own
stride; RNSR delivers what the policy makes of the outcome. -/
def Obligations.ResidueResults : Prop :=
  (∀ (w : FForm) (s : State) (c : Nat) (slots : List Nat), s.actor = .party c slots →
    let words := (actingSlots (.rnscfgSet w) s).map (fun q =>
      (q, readWord (commitTags s c q (Ctl.tags w.ctl)).1 c q w.a))
    let on : Effect := thenNext fun s c q =>
      let ok := words.filter (fun x => profileOk (s.coreRec c) (x.2.toNat % 16))
      let won := ((ok.map (·.2)).headD (readWord s c q w.a)) &&& 0xFFF00F8F#32
      s.modBlock c (fun b => { b with
        rnsPend := b.rnsPend ++ [⟨won.setWidth 64, s.clock, quarterOf q, q⟩]
        fixCnt := 0, fixSeen := false, misSeen := false, rngSeen := false })
    partyOk (.rnscfgSet w) (fun s c q => profileOk (s.coreRec c) ((readWord s c q w.a).toNat % 16)) on justNext c s slots
      = true →
    exec (.rnscfgSet w) s = .next (slots.foldl (memberState (.rnscfgSet w) on justNext c) s)) ∧
  (∀ w : FForm,
    Completes (.rnscfgGet w)
      (fun s c q => let a := (readWord s c q w.a).toNat; a % 16 == 0 && decide (a ≤ 0x1FFFF0))
      (thenNext fun s c q => xWrite s c (readWord s c q w.a).toNat (leBytes (rnsRecord s c q) 16)) justNext ∧
    Completes (.rnschk w) (fun s c q => profileOf s c q != 0)
      (putTag w.ctl w.d 1 (fun s c q =>
        let d := profileOf s c q
        let v := readSrc s c q w.a 3
        ((outcomeWord (reverse d (channelSet (s.coreRec c) d) false (fun k => v / 2 ^ (8 * k) % 256)) false false).toNat,
          0)))
      (skipTag w.ctl w.d 1) ∧
    (let addrs := fun (s : State) (c q : Nat) => (List.range (profileOf s c q + 3)).map (fun k =>
      (readWord s c q w.b + BitVec.ofNat 32 k * readWord s c q w.c).toNat)
     Completes (.rnsf w)
      (fun s c q => profileOf s c q != 0 && (addrs s c q).all (fun a => decide (a ≤ 0x1FFFFF)))
      (thenNext fun s c q =>
        let d := profileOf s c q
        let x := tyValue w.ty (readSrc s c q w.a w.ty.regs)
        let bytes := (List.range (d + 2)).map (fun k => BitVec.ofInt 8 (x % (modulus (slotChannel d k) : Int))) ++
          [BitVec.ofNat 8 (tagOf d x)]
        ((addrs s c q).zip bytes).foldl (fun s p => xWrite s c p.1 [p.2]) s) justNext) ∧
    (let row := fun (s : State) (c q : Nat) => (readWord s c q w.a).toNat
     let res := fun (s : State) (c q : Nat) (u : Quad) =>
      let g := guarded u.d u.ktotal.toNat (SMap.get u.ea (row s c q)).toNat (SMap.get u.eb (laneOf q)).toNat
      (reverse u.d u.chset.toNat g (quadResidue (s.block c) u.q (row s c q) (laneOf q)), g)
     let pol := fun (s : State) (c q : Nat) (u : Quad) =>
      applyPolicy s c q ((s.block c).rnsAt s.clock (some q)).toNat (res s c q u).1 (res s c q u).2 u.d
     Completes (.rnsr w)
      (fun s c q => decide (row s c q ≤ 31) && match (s.block c).quad? w.num5 with
        | some u => (pol s c q u).2.toBool
        | none => false)
      (thenNext fun s c q => match (s.block c).quad? w.num5 with
        | some u => match (pol s c q u).2 with
          | .ok v =>
            let t := (pol s c q u).1
            let out := (outcomeWord (res s c q u).1 (res s c q u).2 v.2).toNat
            allocTag t c q { emptyResult w.ctl.alloc.toNat (t.thread c q).pc w.d 4 with
              dst := splitValue (dstRegs (t.thread c q) w.d 4) ((BitVec.ofInt 64 v.1).toNat + out * 2 ^ 64) }
          | .error _ => s
        | none => s)
      (skipTag w.ctl w.d 4)))

/-! ## Events of cores, memory and the pod -/

/-- What moves threads and sequencers on (R32, R33, R73, R194, R195, R227, R274, R276, R292). RESULT_ARRIVAL makes the
oldest result under its tag available; AGE_PROMOTION promotes a thread whose age has reached 3,584; FRESUME lets
suspended threads go on, or kills their blocks. A halted package takes no acknowledgement, and a package that is not up
no FRESUME (R317, R320, log entry 65). -/
def Obligations.SchedulingEventResults : Prop :=
  (∀ (s : State) (c q tag : Nat) (level : BitVec 2),
    let p := (s.thread c q).pend.find? (fun p => p.tag == tag && !p.arrived)
    let t := s.modThread c q (fun t => { t with pend := arriveFirst tag t.pend })
    exec (.resultArrival c q tag level) s = .next
      (if level ≠ 0 ∧ p.any (fun p => p.slice) = true then
        { t with congestion := t.congestion ++
            [⟨c, quarterOf q, level.toNat, t.clock + 16 * max 1 (bits s.regs.throt.toNat 31 24)⟩] }
       else t)) ∧
  (∀ (tag : Nat) (l : List Pending), (l.find? (fun p => p.tag == tag && !p.arrived)).isSome = true →
    ∃ (a b : List Pending) (p : Pending), l = a ++ p :: b ∧ p.tag = tag ∧ p.arrived = false ∧
      (∀ x ∈ a, x.tag ≠ tag ∨ x.arrived = true) ∧ arriveFirst tag l = a ++ { p with arrived := true } :: b) ∧
  (∀ (s : State) (c q : Nat), (s.thread? c q).isSome = true →
    exec (.agePromotion c q) s = .next (s.modThread c q (fun t =>
      if t.live = true ∧ 3584 ≤ t.age then { t with promoted := true, yld := false } else t))) ∧
  (∀ (s : State) (c k : Nat),
    exec (.congestionLevelExpiry c k) s = .next { s with congestion := s.congestion.filter (fun x =>
      !(x.core == c && x.quarter == k && decide (x.untilClock ≤ s.clock))) } ∧
    (let ts := s.threads.filter (fun t => t.core == c && quarterOf t.slot == k)
     ts.any (fun t => ready s t) = false → exec (.urgentReadMark c k) s = .next { s with
      notices := s.notices ++ (ts.filterMap (fun t => heldByRead s t)).map (fun tag => Notice.urgent c k tag) })) ∧
  (∀ (s : State) (c q : Nat) (p : Posted) (r : List Posted), s.halted = false → (s.thread c q).posted = p :: r →
    exec (.postedWriteAck c q) s =
      .next (performPosted c q (s.modThread c q (fun t => { t with posted := t.posted.drop 1 })) p)) ∧
  (∀ (s : State) (c q : Nat), s.halted = true ∨ (s.thread c q).posted = [] →
    exec (.postedWriteAck c q) s = .next s) ∧
  (∀ (s : State) (cmd : DWord), s.up = false →
    exec (.fresumeRetry cmd) s = .next s ∧ exec (.fresumeKill cmd) s = .next s) ∧
  (∀ (s : State) (cmd : DWord) (c : Nat) (seq : Bool) (slots : List Nat), s.up = true →
    fresumeTargets s cmd = some (c, seq, slots) →
    exec (.fresumeRetry cmd) s = .next (slots.foldl (resumeThread c)
      (if seq then s.modSeq c (fun q => { q with waiting := none }) else s)) ∧
    exec (.fresumeKill cmd) s = .next (slots.foldl (killThread c)
      (if seq then killBlock s c 0x410 (s.block c).seq.spc.toNat else s)))

/-- What the memory system does by itself, and errors (R150, R182, R187 to R192, R203 to R206, R226, R285, R288, R289,
R303). A retired channel takes the top of its stack, after the stack's dirty bytes have gone home, and leaves every
other byte. An uncorrectable error marks its unit, of whichever kind, and raises nothing; a delta merged at its home
brings its mark, and one for a poisoned element is discarded; a corrected one counts; a counter loses one at each
whole period; below its mark an event only adds one, and at the mark one record goes out and the counter stands at
half the mark. INVDB of a package that is not up does nothing (log entry 65). That a walk and an invalidation take the
bytes of an entry or a record as they stand, poisoned or not, at whatever address is log entry 88 (DESIGN CHOICE). -/
def Obligations.MemoryEventResults : Prop :=
  (∀ s : State,
    (∀ (co : Nat) (n : BitVec 12), exec (.boundCacheEvict co n) s = .next
      (collectHits s n.toNat (fun b => b.cohort == co))) ∧
    (∀ c region : Nat, (regionsIn (s.coreRec c) (region % 256)).contains region = true →
      exec (.l1Eviction c region) s = .next (evictRegion s c region)) ∧
    (∀ slice c : Nat, exec (.lazyReleaseDrain slice c) s =
      .next (drainRecords s (fun r => r.slice == slice && r.core == c))) ∧
    (∀ slice : Nat,
      let mine := sliceBorrowed s slice
      mine.Nodup ∧ (∀ l : Nat, l ∈ mine ↔ ∃ x ∈ s.borrowLines, x.dirty = true ∧ s.sliceOf (32 * x.sector) = slice ∧
        x.sector / 16 = l) ∧
      exec (.writebackEngine slice) s = .next (if 1024 < mine.length then
        borrowWriteBack s (fun k => (mine.take (mine.length - 512)).contains (k / 16)) else s)) ∧
    (∀ (c : Nat) (va : DWord) (store : Bool) (u : State) (e : Pte) (level addr : Nat), va.toNat < 2 ^ 52 →
      walkFrom s va.toNat 3 1 (s.agent c).table = (u, .leaf e level addr) →
      let sh := levelShift level
      let v := cacheXlate u c ⟨(s.agent c).ctx, e.g, level, va.toNat / 2 ^ sh, e, addr⟩
      exec (.pageWalk c va store) s = .next
        (if v.permitted e (e.ppn * 2 ^ 16 / 2 ^ sh * 2 ^ sh + va.toNat % 2 ^ sh) (if store then needW else needR) then
          setAD v c addr e store else v)) ∧
    (∀ a : DWord, exec (.invdb a) s = .next (if s.up = false then s
      else if s.invFifo.length < 16 then { s with invFifo := s.invFifo ++ [a] }
      else { s with invHeld := s.invHeld ++ [a] })) ∧
    (∀ (a : DWord) (rest : List DWord), s.invFifo = a :: rest →
      let r := physRead s a.toNat 32
      let v := parseInv r.2.1
      let t : State := { r.1 with invFifo := rest ++ s.invHeld.take 1, invHeld := s.invHeld.drop 1 }
      let p := finishPosted t v
      let u : State := { p with
        cores := p.cores.map (fun k => { k with tlb := k.tlb.filter (fun x => !v.covers x) })
        xlate := p.xlate.filter (fun x => !v.covers x.2) }
      exec .invalidationComplete s = .next
        (if v.cw = 0 then (if v.bad then t else u)
         else physWrite (borrowWriteBack (if v.bad then t else u) (fun _ => true)) v.cw (if v.bad then 2 else 1) 8)) ∧
    (∀ (st : Fin 16) (ch : Fin 32), s.chanDead.contains (st.val, ch.val) = false →
      (s.numChannels st.val ≤ 16 → exec (.channelRetire st ch) s = .next
        (({ s with failedStacks := insertNat s.failedStacks st.val } : State).notice (.stackFailed st.val))) ∧
      (16 < s.numChannels st.val → ∃ t, exec (.channelRetire st ch) s = .next t ∧
        t.chanDead = s.chanDead ++ [(st.val, ch.val)] ∧
        ∀ a : Nat,
          let gone := paPkg a = s.pkg ∧ paTier a = 0 ∧ paStack a = st.val ∧
            (s.numChannels st.val - 1) * 2 ^ 31 ≤ paOff a % 2 ^ 36
          (gone → SMap.get t.mem a = 0 ∧ t.poison.contains (a / 32) = false) ∧
          (¬gone → s.memWf = true → SMap.get t.mem a = SMap.get (drainStack s st.val).mem a ∧
            (s.rested = true → SMap.get t.mem a = SMap.get s.mem a)))) ∧
    (∀ k : Nat, exec (.uncorrectableError (.memory k)) s = .next { s with poison := insertNat s.poison k }) ∧
    (∀ c k : Nat, exec (.uncorrectableError (.xbuf c k)) s = .next (s.modBlock c (fun b =>
      if k < 65536 then { b with xpoison := insertNat b.xpoison k } else b))) ∧
    (∀ c k : Nat, exec (.uncorrectableError (.wbuf c k)) s = .next (s.modBlock c (fun b =>
      if k < 49152 then { b with wpoison := insertNat b.wpoison k } else b))) ∧
    (∀ c tile row : Nat, exec (.uncorrectableError (.tileRow c tile row)) s = .next (s.modBlock c (fun b =>
      if tile < 16 ∧ row < 32 then { b with tilePoison := insertNat b.tilePoison (32 * tile + row) } else b))) ∧
    (∀ c k : Nat, exec (.uncorrectableError (.l1 c k)) s = .next (s.modCore c (fun r => { r with
      sectors := r.sectors.map (fun x => { x with poison := x.poison || x.sector == k })
      updates := r.updates.map (fun u => { u with
        deltas := u.deltas.map (fun d => { d with poison := d.poison || d.addr / 32 == k }) }) }))) ∧
    (∀ (c q n : Nat) (tx : Tx), (s.thread c q).tx = some tx →
      (∀ e, tx.reads[n]? = some e → ∃ t, exec (.uncorrectableError (.txRead c q n)) s = .next t ∧ SameMemory s t ∧
        t.thread c q = { s.thread c q with tx := some { tx with reads := tx.reads.set n { e with poison := true } } }) ∧
      (∀ e, tx.writes[n]? = some e → ∃ t, exec (.uncorrectableError (.txWrite c q n)) s = .next t ∧ SameMemory s t ∧
        t.thread c q =
          { s.thread c q with tx := some { tx with writes := tx.writes.set n { e with poison := true } } })) ∧
    (∀ d : Delta, sectorPoisoned s d.addr = false →
      let m := memWrite s d.addr (leBytes (aopValue d.aop d.ty (leNat (memBytes s d.addr (d.ty.bits / 8)))
        d.value.toNat 0) (d.ty.bits / 8))
      (applyDelta s d).mem = m.mem ∧ ∀ k, k ∈ (applyDelta s d).poison ↔
        k ∈ m.poison ∨ (d.poison = true ∧ k = d.addr / 32)) ∧
    (∀ d : Delta, sectorPoisoned s d.addr = true → applyDelta s d = s) ∧
    (∀ co k : Nat, exec (.uncorrectableError (.foreignWay co k)) s = .next { s with
      foreignWays := s.foreignWays.map (fun f => (f.1, f.2.1, f.2.2.1, f.2.2.2 || (f.1 == co && f.2.1 == k))) }) ∧
    (∀ c q n : Nat, exec (.uncorrectableError (.register c q n)) s = .next (s.modThread c q (fun t =>
      { t with regPoison := insertNat t.regPoison n }))) ∧
    (∀ c q tag : Nat, exec (.uncorrectableError (.pending c q tag)) s = .next (s.modThread c q (fun t =>
      { t with pend := strikePending tag t.pend }))) ∧
    (∀ (c q n : Nat) (p : Posted), (s.thread c q).posted[n]? = some p →
      ∃ t, exec (.uncorrectableError (.posted c q n)) s = .next t ∧ SameMemory s t ∧
        t.thread c q = { s.thread c q with posted := (s.thread c q).posted.set n { p with poison := true } }) ∧
    (∀ (k : CounterKind) (i : Nat) (pos : Word), i < counterCount k →
      exec (.correctedError k i pos) s = .next (countEvent (countHbm s k i) k i pos.toNat)) ∧
    (∀ (k : CounterKind) (i : Nat), exec (.leakTick k i) s = .next
      (if (s.leakOf k).1 ≠ 0 ∧ s.timeUs % (s.leakOf k).1 = 0 then s.setCounter k i (s.counter k i - 1) else s))) ∧
  (∀ (tag : Nat) (l : List Pending), (l.find? (fun p => p.tag == tag)).isSome = true →
    ∃ (a b : List Pending) (p : Pending), l = a ++ p :: b ∧ p.tag = tag ∧ (∀ x ∈ a, x.tag ≠ tag) ∧
      strikePending tag l = a ++ { p with poison := some (p.poison.getD (if p.kind = 5 then 1 else 0)) } :: b) ∧
  (∀ (s : State) (k : CounterKind) (i pos : Nat), s.counter k i < 0xFFFF →
    let mark := (s.leakOf k).2
    let t := countEvent s k i pos
    (s.counter k i + 1 < mark → t.counter k i = s.counter k i + 1 ∧ t.notices = s.notices) ∧
    (mark ≤ s.counter k i + 1 → t.counter k i = mark / 2 ∧ t.notices.length = s.notices.length + 1))

/-! ## Dispatch -/

/-- Routes, waypoints and rectangles (R254 to R267): the events that start, evaluate, complete, bind, pre-empt and
retire, each where its conditions hold. A launch creates (R58) one live thread for each slot of a row that a role
covers, in that role, at its entry, with every register, predicate and loop level clear. A waypoint that no dispatch
takes fails with LAUNCH_REJECTED: log entry 63 (DEDUCED). A route leaves its FIFO when its waypoints of PREDCNT 0 have
been evaluated (R254). Of a package that is not up the kernel's commands do
nothing: log entry 65 (DEDUCED). Bind and pre-empt records and completion words are read and written by physical
address: log entry 32; poisoned records and such in a hole are taken as they stand: log entry 88 (DESIGN CHOICE). The
stall counters of a waypoint count while it stands, also where its route's completion has left it waiting (R267). -/
def Obligations.DispatchEventResults : Prop :=
  (∀ (s : State) (k : Fin 16) (a : DWord), s.up = false → exec (.rqdb k a) s = .next s ∧
    exec (.routeStart k) s = .next s ∧ exec (.preemptdb a) s = .next s) ∧
  (∀ (s : State) (k : Fin 16) (a : DWord), s.up = true → (s.rqFifo.filter (fun r => r.1 == k.val)).length < 64 →
    ∃ t, exec (.rqdb k a) s = .next t ∧ t.rqFifo = s.rqFifo ++ [(k.val, BitVec.ofNat 64 (a.toNat / 64 * 64))] ∧
      SameMemory s t ∧ t.threads = s.threads) ∧
  (∀ (s : State) (k : Fin 16) (e : Nat × DWord) (u : State) (h : Header), s.up = true →
    s.rqFifo.find? (fun r => r.1 == k.val) = some e →
    readHeader s e.2.toNat = (u, some h) → u.headerBad h = false →
    let route : Route := ⟨u.routes.length, k.val, e.2.toNat, h.n, h.ctx, h.wpBase, h.table, BitVec.ofNat 64 h.errBase,
      h.errCap, 0, BitVec.ofNat 64 h.cw, false, false, [], []⟩
    let v : State := { u with routes := u.routes ++ [route] }
    let x := ((List.range h.n).filter (fun i => peek v (h.wpBase + 0x200 * i + 4) 4 == 0)).foldl
      (fun s i => match exec (.waypointEvaluate u.routes.length i) s with
        | .next t => t
        | _ => s) v
    let w : State := { x with rqFifo := x.rqFifo.erase e }
    exec (.routeStart k) s = .next (if w.rqFifo.any (fun r => r.1 == k.val) then w.post (.routeStart k) else w)) ∧
  (∀ (s u v : State) (r : Route) (i : Nat) (w : Wp), s.route? r.id = some r → readWp s r.id i = (u, w) → i < r.n →
    (w.state = 0 ∨ w.state = 2) → r.failedWps.contains i = false → w.predCnt = 0 →
    readFlags u r i w.flags = (v, none) → v.allMet r.id i w = true →
    let refused := (w.kind = 1 ∧ 1 ≤ w.scope ∧ w.scope ≤ 3) ∨ 2 ^ w.ring.capLog < w.ring.thresh
    (refused → exec (.waypointEvaluate r.id i) s = .next (rejectWp v r i w)) ∧
    (¬refused → w.ring.thresh = 0 → w.launched = 0 →
      exec (.waypointEvaluate r.id i) s = .next (makeInstance v r i w 0)) ∧
    (¬refused → w.ring.thresh ≠ 0 → w.ring.thresh ≤ w.avail → w.alive < w.maxInst →
      exec (.waypointEvaluate r.id i) s = .next (makeInstance v r i w w.ring.thresh)) ∧
    (¬refused → 0 < w.avail → w.avail < w.ring.thresh → w.alive = 0 →
      exec (.waypointEvaluate r.id i) s = .next (makeInstance v r i w w.avail))) ∧
  (∀ (s : State) (r : Route) (i : Nat), s.route? r.id = some r → i < r.n →
    let w := (readWp s r.id i).2
    let failed := r.failedWps.contains i
    w.state ≠ 3 → w.state ≠ 4 → w.alive = 0 →
    (failed = true ∨ (if w.ring.thresh = 0 then w.launched ≠ 0 else w.predCnt = 0 ∧ w.avail = 0 ∧ s.allMet r.id i w)) →
    let u := putWpState (if 6 ≤ w.scope then dropBorrowed (borrowWriteBack s (fun _ => true)) (fun _ => true) else s) w
      (if failed then 4 else 3) 0 w.launched
    exec (.waypointComplete r.id i) s = .next (checkRoute
      (if failed = false ∨ w.prop = true then (successors u w).foldl (notifySuccessor r i w) u else u) r.id)) ∧
  (∀ s : State, exec .stallCounterTick s = .next (s.routes.foldl (fun s r =>
    (List.range r.n).foldl (fun s i =>
    let w := (readWp s r.id i).2
    let stands := (!r.completed || r.leftWaiting.contains i) &&
      !s.routes.any (fun x => r.id < x.id && x.wpBase ≤ w.addr && w.addr < x.wpBase + 0x200 * x.n)
    match (if stands then stallCounter s r.id i w else none) with
    | some o => physWrite s (w.addr + o) (min (2 ^ 64 - 1) (field w.raw o 8 + 1)) 8
    | none => s) s) s)) ∧
  (∀ (s : State) (a : DWord), s.up = false → exec (.bind a) s = .next s ∧ exec (.bindResume a) s = .next s) ∧
  (∀ (s u : State) (a : DWord) (resume : Bool) (v : Nat) (po : Bool) (r : Route) (i : Nat), s.up = true →
    physRead s a.toNat 64 = (u, v, po) →
    let b := { parseBind v with resume := resume }
    u.wpAt b.wpAddr = some (r, i) →
    let w := (readWp u r.id i).2
    let args := if resume then (u, some []) else readArgs u b w
    let imgs := allImages args.1 b w
    b.x0 + w.rectW ≤ 24 → b.y0 + w.rectH ≤ 16 → (b.cells w).all (fun c => (u.slotEntry c.1).state == 0) = true →
    launchBad w = false → u.tableOk b.table = true →
    ∀ (bs : List Byte) (ps : List (List Nat)), args.2 = some bs → imgs.2 = some ps →
      (resume = true → ps.any (fun img => resumeRefused imgs.1 img w.roles) = false) →
      exec (if resume then .bindResume a else .bind a) s = .next (bindStart imgs.1 b r i w ps bs)) ∧
  (∀ (s : State) (a : DWord),
    let v := physRead s a.toNat 16
    let cores := v.1.rectCores (v.2.1 % 2 ^ 16)
    let cw := v.2.1 / 2 ^ 64 % 2 ^ 64
    s.up = true → cores ≠ [] → exec (.preemptdb a) s = .next (physWrite (cores.foldl preemptBlock v.1) cw (completionValue 0 0 0) 8)) ∧
  (∀ (s : State) (c : Nat) (b : Block), s.block? c = some b → blockOver s b = true →
    let u := departCore (s.modBlock c (fun b => { b with retired := true })) c
    let cores := u.rectCores b.rect
    (cores.any (fun k => !(u.block k).retired) = true → exec (.blockRetire c) s = .next u) ∧
    (cores.all (fun k => (u.block k).retired) = true →
      let v := cores.foldl (fun s k => (removeBlock s k).setSlot { s.slotEntry k with state := 0 })
        (cores.foldl settleCore u)
      let w := (readWp v b.route b.wp).2
      (v.route? b.route).isSome = true → exec (.blockRetire c) s = .next
        (((putWpState v w w.state (w.alive - 1) w.launched).post (.waypointEvaluate b.route b.wp)).post
          (.waypointComplete b.route b.wp)))) ∧
  (∀ (c : Nat) (roles : List RoleRow) (t : Thread), t ∈ launchThreads c roles →
    t.core = c ∧ t.slot < 2048 ∧ t.live = true ∧ t.regs = [] ∧ (∀ n, 0 < n → n < 16 → t.pred n = false) ∧ t.loops = [] ∧
    t.stack = [] ∧ t.pend = [] ∧ t.inTrap = false ∧ t.wait = .none ∧ t.tx = none ∧
    ∃ r ∈ roles, r.first ≤ rowOf t.slot ∧ rowOf t.slot ≤ r.last ∧ t.role = r.role ∧ t.pc = r.entry)
/-! ## Pod, lending and platform events -/

/-- The pod (R22, R290 to R292, R312 to R314, R317). A member is declared lost once; PODID is accepted once, before any
port has trained; a port trains once boot is over; a request is served where a window admits it, else counted and
refused. A collective with a lost member in its set ends PEER_LOST, also that of a pre-empted block (R391, R392; log
entry 10). That a halted package takes no PODID, port or request is log entry 65 (DEDUCED). -/
def Obligations.PodEventResults : Prop :=
  (∀ (s : State) (n : BitVec 10), n.toNat ≠ s.pkg → s.live.contains n.toNat = true →
    ∃ t, exec (.memberLoss n) s = .next t ∧ SameMemory s t ∧ t.live = s.live.filter (· != n.toNat) ∧
      t.lost = insertNat s.lost n.toNat ∧ (∀ f ∈ t.foreignWays, paPkg (32 * f.2.1) ≠ n.toNat) ∧
      (∀ r ∈ t.cores, ∀ x ∈ r.sectors, paPkg (32 * x.sector) ≠ n.toNat) ∧
      (∀ u ∈ t.threads, ∀ p ∈ u.posted, paPkg p.addr ≠ n.toNat) ∧
      (∀ p ∈ s.parked, p.2.kind = .coll → p.2.ended = none → ∀ r, p.2.coll = some r → n.toNat ∈ memberSet s r.n →
        ∃ x ∈ t.parked, x.1 = p.1 ∧ x.2 = { p.2 with ended := some (codePeerLost, cPeerLost) }) ∧
      (∀ k ∈ s.copies, k.kind = .coll → k.ended = none → ∀ r, k.coll = some r → n.toNat ∈ memberSet s r.n →
        Instr.copyCommandEnd k.id ∈ t.agenda ∧ ∃ x ∈ t.copies, x.id = k.id ∧ x.ended = some (codePeerLost, cPeerLost))) ∧
  (∀ (s : State) (n : BitVec 10), n.toNat = s.pkg ∨ s.live.contains n.toNat = false →
    exec (.memberLoss n) s = .next s) ∧
  (∀ (s : State) (v : Word), s.regs.podSet = true ∨ s.halted = true ∨ s.ports.any (fun p => p.2.2) = true →
    exec (.podid v) s = .next s) ∧
  (∀ (s : State) (v : Word), s.regs.podSet = false → s.halted = false → s.ports.any (fun p => p.2.2) = false →
    ∃ t, exec (.podid v) s = .next t ∧ t.pkg = v.toNat % 1024 ∧ t.regs.podSet = true ∧ t.live = [v.toNat % 1024] ∧
      t.threads = s.threads) ∧
  (∀ (s : State) (port : Fin 16) (n : BitVec 10), s.regs.podSet = false ∨ s.regs.bootStage ≠ 5 ∨ s.halted = true →
    exec (.linkTraining port n) s = .next s) ∧
  (∀ (s : State) (port : Fin 16) (n : BitVec 10), s.regs.podSet = true → s.regs.bootStage = 5 → s.halted = false →
    (n.toNat = s.pkg → exec (.linkTraining port n) s = .next
      (({ s with ports := s.ports.filter (fun p => p.1 != port.val) ++ [(port.val, n.toNat, false)] } : State).notice
        (.linkEvent port.val))) ∧
    (n.toNat ≠ s.pkg → exec (.linkTraining port n) s = .next { s with
      ports := s.ports.filter (fun p => p.1 != port.val) ++ [(port.val, n.toNat, true)]
      live := insertNat s.live n.toNat
      lost := s.lost.filter (· != n.toNat) })) ∧
  (∀ (s : State) (src : BitVec 10) (key : BitVec 16) (a : DWord) (req : ReqKind),
    src.toNat ≠ s.pkg → s.live.contains src.toNat = true → s.halted = false →
    let n := (reqSpan req).1
    let admitted := !s.remote a.toNat && decide (paTier a.toNat ≤ 1) && !s.hole a.toNat n &&
      (List.range 256).any (fun w => windowAdmits (SMap.get s.windows w) src.toNat key.toNat a.toNat n (reqSpan req).2)
    (admitted = true → exec (.inboundRequest src key a req) s = .next
      ((serveRequest s a.toNat req).1.notice (.response src.toNat (serveRequest s a.toNat req).2.1
        (serveRequest s a.toNat req).2.2))) ∧
    (admitted = false → exec (.inboundRequest src key a req) s = .next
      (({ s with refusedIn := s.refusedIn + 1 } : State).notice (.response src.toNat false [])))) ∧
  (∀ (w : BitVec 256) (src key a n perm : Nat), windowAdmits w src key a n perm = true →
    w.getLsbD 100 = true ∧ bits w.toNat 116 101 = key ∧ bits w.toNat 255 192 ≤ a ∧
    a + n ≤ bits w.toNat 255 192 + bits w.toNat 191 128 ∧ w.getLsbD (97 + perm) = true)

/-- The lender's side (R294 to R299, R303 to R305): commands and events of the cadastre, each in the state of the
entry where it acts, an OP that is none and an OFFER of TERM 0 answered BADOP, a command that its state does not list
BADSTATE, neither changing anything else, and an offered extent reading as zeros, sound, to whoever its borrower is,
in a package that has booted and is not halted; that before that, and after a halt, neither commands nor messages do
anything is log entry 65 (DEDUCED from R317, R320). An extent is 2^28 bytes of the pool, in units of 4 KiB over the
eight LP6 controllers (R17); that they follow each other in turn is log entry 85 (DESIGN CHOICE). -/
def Obligations.LenderEventResults : Prop :=
  (∀ (s : State) (n : Nat), n < 8192 →
    (∀ o, o < 2 ^ 28 → paOff (s.extentBase n + o) = n * 2 ^ 28 + o ∧ lp6Controller (s.extentBase n + o) = o / 4096 % 8) ∧
    ∀ k, k < 8 → ∃ o, o < 2 ^ 28 ∧ lp6Controller (s.extentBase n + o) = k) ∧
  (∀ a b : Nat, lp6Controller a = lp6Controller b → lp6Local a = lp6Local b → paOff a = paOff b) ∧
  (∀ (s : State) (v : DWord),
    let c := parseLend v
    let e := s.cad c.ext
    (s.up = false → exec (.lendcmdOffer v) s = .next s ∧ exec (.lendcmdRecall v) s = .next s ∧
      exec (.lendcmdFree v) s = .next s) ∧
    (s.up = true → Config.lp6 = true →
    (c.op = 1 → c.term ≠ 0 → cadState e = 0 → ∃ t, exec (.lendcmdOffer v) s = .next t ∧ cadState (t.cad c.ext) = 1 ∧
      cadBorrower (t.cad c.ext) = c.borrower ∧ t.regs.lendStat = 0 ∧ t.offers = s.offers ++ [(c.ext, s.timeUs, c.term, 0)] ∧
      t.notices = s.notices ++ [.addEvent c.borrower c.ext c.term c.pr c.pw c.keep] ∧ t.threads = s.threads) ∧
    (c.op = 1 → c.term ≠ 0 → cadState e ≠ 0 → exec (.lendcmdOffer v) s = .next (lendAnswer s 1)) ∧
    (c.op ≠ 1 ∨ c.term = 0 → exec (.lendcmdOffer v) s = .next (lendAnswer s 2)) ∧
    (c.op = 1 → c.term ≠ 0 → cadState e = 0 → s.memWf = true → ∀ t, exec (.lendcmdOffer v) s = .next t →
      ∀ o n, o + n ≤ 2 ^ 28 →
        (serveRequest t (s.extentBase c.ext + o) (.read n)).2 = (true, List.replicate n 0)) ∧
    (∀ code : Nat, code < 4 → (lendAnswer s code).regs.lendStat.toNat = code ∧
      lendAnswer s code = { s with regs := { s.regs with lendStat := (lendAnswer s code).regs.lendStat } }) ∧
    (cadState e = 2 → ∃ t, exec (.lendcmdRecall v) s = .next t ∧ t.cad c.ext = cadWith e 3 (cadLease e) (cadExpiry e) ∧
      t.regs.lendStat = 0 ∧ SameMemory s t ∧ t.notices = s.notices ++ [.message (cadBorrower e) msgRecall c.ext]) ∧
    (cadState e ≠ 2 → exec (.lendcmdRecall v) s = .next (lendAnswer s 1)) ∧
    (cadState e = 1 → exec (.lendcmdFree v) s = .next (lendAnswer (freeExtent s c.ext false) 0)) ∧
    (cadState e = 4 ∨ cadState e = 5 → exec (.lendcmdFree v) s = .next (lendAnswer (freeExtent s c.ext (cadKeep e)) 0)) ∧
    (cadState e = 0 ∨ cadState e = 2 ∨ cadState e = 3 → exec (.lendcmdFree v) s = .next (lendAnswer s 1)))) ∧
  (∀ (s : State) (x : Fin 8192),
    let n := x.val
    let e := s.cad n
    exec (.offerTimeout x) s =
      .next (if cadState e = 1 ∧ s.offeredAt n + 100000 ≤ s.timeUs then freeExtent s n false else s) ∧
    exec (.leaseExpiry x) s = .next (if cadState e = 2 ∧ cadExpiry e ≤ s.timeUs then
      (s.setCad n (cadWith e 4 (cadLease e) (cadExpiry e))).notice (.message (cadBorrower e) msgBackInvalidate n)
      else s) ∧
    exec (.recallDeadline x) s =
      .next (if cadState e = 3 ∧ s.deadlineOf n ≤ s.timeUs then freeExtent s n (cadKeep e) else s) ∧
    (s.up = true →
      (cadState e = 1 → ∃ t, exec (.leaseAccept x ⟨true, true⟩) s = .next t ∧ cadState (t.cad n) = 2 ∧
        cadExpiry (t.cad n) = (s.timeUs + 100000 * s.termOf n) % 2 ^ 64 ∧ SameMemory s t ∧
        t.notices = s.notices ++ [.message (cadBorrower e) msgAccepted n]) ∧
      (cadState e = 1 → exec (.leaseRefusal ⟨x, ⟨true, true⟩⟩) s = .next (freeExtent s n false)) ∧
      exec (.leaseRenewal x) s = .next (if cadState e = 2 ∧ s.timeUs < cadExpiry e then
        (s.setCad n (cadWith e 2 (cadLease e) (s.timeUs + 100000 * s.termOf n))).notice
          (.message (cadBorrower e) msgRenewed n)
        else s) ∧
      (∀ b : BitVec 16, exec (.releaseMessage ⟨x, b⟩) s = .next
        ((if cadState e = 3 ∧ cadBorrower e = b.toNat then freeExtent s n (cadKeep e) else s).notice
          (.message b.toNat msgReleaseAck n))) ∧
      (∀ (b : BitVec 16) (o : Nat) (req : ReqKind) (ide : Bool),
        let k := reqSpan req
        let ok := (cadState e = 2 ∨ cadState e = 3) ∧ cadBorrower e = b.toNat ∧ o + k.1 ≤ 2 ^ 28 ∧
          ((k.2 = 0 ∧ cadPr e = true) ∨ (k.2 = 1 ∧ cadPw e = true)) ∧ ide = true
        (ok → exec (.cxlMemRequest x b o ⟨req, ide⟩) s = .next
          (let r := serveRequest s (s.extentBase n + o) req
           r.1.notice (.response b.toNat r.2.1 r.2.2))) ∧
        (¬ok → exec (.cxlMemRequest x b o ⟨req, ide⟩) s = .next (s.notice (.response b.toNat false []))))) ∧
    (∀ (att ide : Bool), s.up = false ∨ cadState e ≠ 1 ∨ att = false ∨ ide = false →
      exec (.leaseAccept x ⟨att, ide⟩) s = .next s ∧ exec (.leaseRefusal ⟨x, ⟨att, ide⟩⟩) s = .next s) ∧
    (s.up = false → exec (.leaseRenewal x) s = .next s ∧ (∀ b, exec (.releaseMessage ⟨x, b⟩) s = .next s) ∧
      ∀ b o req ide, exec (.cxlMemRequest x b o ⟨req, ide⟩) s = .next s))

/-- The borrower's side, heartbeats and the fabric manager (R297 to R304). That a package that is not up takes no
command and no message is log entry 65 (DEDUCED); that every entry of a silent lender that is not INVALID becomes LOST,
its copies poisoned, and that the list of attested managers is refilled, log entry 35; that a snooped line is 64 bytes,
log entry 36. -/
def Obligations.BorrowerEventResults : Prop :=
  (∀ (s : State) (x : Fin 4096),
    let i := x.val
    let e := s.borrow i
    (∀ v : BitVec 128, s.up = false → exec (.borrowedExtentWrite x v) s = .next s) ∧
    (∀ v : BitVec 128, s.up = true → (beState e = 4 ∨ beState e = 5) → beLease v = 0 →
      exec (.borrowedExtentWrite x v) s = .next (s.setBorrow i (beWith e 0 0))) ∧
    (∀ v : BitVec 128, s.up = true → beState e = 2 → exec (.borrowedExtentWrite x v) s = .next s) ∧
    (∀ v : BitVec 128, s.up = true → beState e = 0 → exec (.borrowedExtentWrite x v) s = .next (s.setBorrow i (BitVec.ofNat 128
      (bits v.toNat 63 19 * 2 ^ 19 + bits e.toNat 18 0 + beExpiry e * 2 ^ 64)))) ∧
    (∀ v : BitVec 128, s.up = true → beState e = 3 → exec (.borrowedExtentWrite x v) s = .next
      (if beLease v = 0 ∧ beLease e ≠ 0 then
        (s.setBorrow i (beWith e 3 0)).notice (.message (beLender e) msgRelease (beExtent e)) else s)) ∧
    (∀ (sent : Nat) (term : BitVec 12) (pr pw ide : Bool), s.up = false ∨ s.timeUs < sent ∨ ide = false →
      exec (.leaseAcknowledgement x sent term ⟨pr, pw⟩ ide) s = .next s) ∧
    (∀ (sent : Nat) (term : BitVec 12) (pr pw : Bool), s.up = true → sent ≤ s.timeUs →
      (beState e = 0 → beLease e ≠ 0 → SMap.wf s.terms = true →
        ∃ t, exec (.leaseAcknowledgement x sent term ⟨pr, pw⟩ true) s = .next t ∧ beState (t.borrow i) = 2 ∧
          bePr (t.borrow i) = pr ∧ bePw (t.borrow i) = pw ∧ SMap.get t.terms i = term ∧
          beExpiry (t.borrow i) = (sent + 100000 * term.toNat - 1000 * s.msOf 7 0) % 2 ^ 64 ∧ t.mem = s.mem) ∧
      (beState e = 2 → exec (.leaseAcknowledgement x sent term ⟨pr, pw⟩ true) s =
        .next (acknowledged s i sent (SMap.get s.terms i).toNat (bePr e) (bePw e)))) ∧
    exec (.borrowerExpiry x) s =
      .next (if beState e = 2 ∧ beExpiry e ≤ s.timeUs then s.setBorrow i (beWith e 4 (beLease e)) else s) ∧
    (s.up = false → exec (.recallMessage x) s = .next s ∧ exec (.releaseAck x) s = .next s ∧
      ∀ line, exec (.backInvalidateSnoop x line) s = .next s) ∧
    (s.up = true →
      exec (.recallMessage x) s =
        .next (if beState e = 2 then returnBorrowed (s.setBorrow i (beWith e 3 (beLease e))) (s.inBorrow i) else s) ∧
      exec (.releaseAck x) s = .next (if beState e = 3 ∧ beLease e = 0 then s.setBorrow i (beWith e 0 0) else s) ∧
      (∀ line : Nat, ∃ t, exec (.backInvalidateSnoop x line) s = .next t ∧
        (let k := (mkPa s.pkg 2 (i * 2 ^ 28) + 64 * (line % 2 ^ 22)) / 32
         (∀ r ∈ t.cores, ∀ z ∈ r.sectors, z.sector ≠ k ∧ z.sector ≠ k + 1) ∧
         (∀ f ∈ t.foreignWays, f.2.1 ≠ k ∧ f.2.1 ≠ k + 1) ∧
         ∀ l ∈ t.borrowLines, l.sector ≠ k ∧ l.sector ≠ k + 1) ∧
        t.notices = s.notices ++ [.message (beLender e) msgSnoopDone (beExtent e)]))) ∧
  (∀ (s : State) (p : BitVec 16),
    (s.up = true → ∃ t, exec (.heartbeat p) s = .next t ∧ t.heardAt p.toNat = s.timeUs ∧
      SameRest { s with heard := t.heard } t) ∧
    (s.silent p.toNat = false → exec (.heartbeatLoss p) s = .next s) ∧
    (s.silent p.toNat = true → ∃ t, exec (.heartbeatLoss p) s = .next t ∧ t.mem = s.mem ∧ t.threads = s.threads ∧
      (∀ i, beLender (s.borrow i) = p.toNat → beState (s.borrow i) ≠ 0 → SMap.wf s.borrowed = true →
        beState (t.borrow i) = 5 ∧ (∀ l ∈ t.borrowLines, s.inBorrow i l.sector = false) ∧
        (∀ r ∈ t.cores, ∀ z ∈ r.sectors, s.inBorrow i z.sector = true → z.poison = true ∧ z.dirty = 0) ∧
        (∀ l ∈ s.borrowLines, s.inBorrow i l.sector = true → t.poison.contains l.sector = true)) ∧
      (s.manager = some p.toNat ∨ s.standby = some p.toNat →
        t.attested = s.attested.filter (· != p.toNat) ∧ t.manager = lowest t.attested))) ∧
  (∀ (s : State) (ids : List (BitVec 16)), s.up = true → ∃ t, exec (.fabricManagerElection ids) s = .next t ∧
    (∀ m, t.manager = some m → m ∈ ids.map (·.toNat) ∧ ∀ n ∈ ids.map (·.toNat), m ≤ n) ∧
    (∀ m n, t.manager = some m → t.standby = some n → m ≠ n ∧ n ∈ ids.map (·.toNat)) ∧
    (ids ≠ [] → t.manager ≠ none) ∧ t.attested = ids.map (·.toNat) ∧ t.mem = s.mem ∧ t.threads = s.threads)

/-- Boot, measurement, alarms, resets, clocks and the management registers (R315 to R327), and host accesses (R197,
R210). The model's choices among these: the signature is looked at before the version, and the clock follows the power
figures (log entry 39); a REGISTER_WRITE of 0 bytes is a read (41); a host access to a hole stops the machine, one that
no lease covers fails, and host cores see tier 3 as the kernel does (43); figures and settings beside tier 3 (64); what
a package that is not up still does (65); what the boot-configuration record of stage 2 holds (5). What a configuration
register and a register or table of the package kernel takes of a written value is stated for each: reserved bits read
as zero (R8), ALARMCFG is closed by its LOCK (R319), ALARMSTAT clears by ones, and STATE of a slot moves between FREE
and DEFECTIVE only (R260). A write-only register reads as zero (R7). A port that does not hold MGSEM has an error
completion to whatever it asks under it (R321); that the holder's write of another value to RESETCMD counts as accepted
is log entry 79 (DESIGN CHOICE). -/
def Obligations.PlatformEventResults : Prop :=
  ∀ s : State,
    (∀ im : BootImage, s.regs.bootStage < 5 → s.regs.bootFail = none →
      let n := s.regs.bootStage + 1
      let fail := fun (code : Nat) =>
        ({ s with regs := { s.regs with bootFail := some code } } : State).notice (.bootFailure code)
      let key := ∃ i : Nat, i < 4 ∧ Config.keyDigest i = im.signature.key ∧ Config.revoked.getLsbD i = false
      (¬key ∨ im.signature.sigOk = false → exec (.bootStage im.digest im.signature im.version) s = .next (fail (n + 0x10))) ∧
      (key → im.signature.sigOk = true → im.version < Config.minVersion → exec (.bootStage im.digest im.signature im.version) s = .next (fail (n + 0x20))) ∧
      (key → im.signature.sigOk = true → Config.minVersion ≤ im.version → exec (.bootStage im.digest im.signature im.version) s = .next
        { extendMreg s (n - 1) im.digest with regs := { (if n = 2 then { s.regs with
            upEn := Config.recordUpEn im.digest, upPort := Config.recordUpPort im.digest,
            fabId := Config.recordFabId im.digest } else s.regs) with bootStage := n } })) ∧
    (∀ im : BootImage, 5 ≤ s.regs.bootStage ∨ s.regs.bootFail ≠ none → exec (.bootStage im.digest im.signature im.version) s = .next s) ∧
    (∀ (r : Fin 16) (d : BitVec 256), exec (.mregExtend r d) s =
      .next (if s.up = true ∧ 8 ≤ r.val then extendMreg s r.val d else s)) ∧
    (let cxl := 3 ≤ s.regs.bootStage ∧ s.halted = false
     (∀ r : Requester, s.asks r = true ↔ (r = .kernel → s.up = true) ∧ (r = .mctpPcie → s.regs.upEn = true ∧ cxl)) ∧
     (∀ q : SpdmPath, s.reaches q = true ↔ match q with
      | .cxl _ => cxl
      | .mctpPcie => s.regs.upEn = true ∧ cxl
      | .mctpI3c => True
      | .pod n => s.up = true ∧ n.toNat ≠ s.pkg ∧ s.live.contains n.toNat = true)) ∧
    (∀ (q : SpdmPath) (b : Nat), (s.reaches q = true → 1 ≤ b → b ≤ 16 → exec (.spdmRequest q b) s = .next (s.notice
      (.spdm q b (SMap.get s.mreg (b - 1)) (Config.signature b (SMap.get s.mreg (b - 1)))))) ∧
      (s.reaches q = false ∨ b = 0 ∨ 16 < b → exec (.spdmRequest q b) s = .next s)) ∧
    (∀ a : AlarmSource,
      let u := ({ s with regs := { s.regs with alarmStat := s.regs.alarmStat ||| (1#32 <<< alarmBit a) } } : State).notice
        (.alarmEvent (2 ^ alarmBit a))
      let act := s.regs.alarmCfg.toNat % 4
      exec (.tamperAlarm a) s =
        .next (if act = 0 then u else if act = 1 then eraseKeys u else haltPackage (eraseKeys u))) ∧
    (∀ rs : List Requester, s.regs.mgOwner ≠ 0 → ∃ t, exec (.mgsemAcq rs) s = .next t ∧ t.regs = s.regs ∧
      t.notices = s.notices ++ (rs.filter (fun r => (r == .mctpI3c || r == .mctpPcie) && s.asks r)).map
        (fun r => .mctp r false 0)) ∧
    (∀ rs : List Requester, s.regs.mgOwner = 0 →
      let here := rs.filter (fun r => r != .security && s.asks r)
      here ≠ [] → ∃ t r, exec (.mgsemAcq rs) s = .next t ∧ r ∈ here ∧ t.regs.mgOwner = ownerCode r ∧
        t.regs.mgDeadlineUs = s.timeUs + 1000 * max 1 s.regs.mgHold ∧
        t.regs.mgLast = s.regs.mgLast.filter (· != r) ++ [r] ∧
        ∀ q ∈ here, (q ∉ s.regs.mgLast → r ∉ s.regs.mgLast) ∧
          (r ∈ s.regs.mgLast → s.regs.mgLast.idxOf r ≤ s.regs.mgLast.idxOf q)) ∧
    (∀ r : Requester,
      (s.holds r = true → exec (.mgsemRel r) s = .next (mctpAnswer { s with regs := { s.regs with mgOwner := 0 } } r true)) ∧
      (s.holds r = false → exec (.mgsemRel r) s = .next (if s.asks r then mctpAnswer s r false else s)) ∧
      ∀ ok : Bool, mctpAnswer s r ok = if r = .mctpPcie ∨ r = .mctpI3c then s.notice (.mctp r ok 0) else s) ∧
    exec .mgsemTimeout s = .next (if s.regs.mgOwner ≠ 0 ∧ s.regs.mgDeadlineUs ≤ s.timeUs then
      { s with regs := { s.regs with mgOwner := 0 } } else s) ∧
    (∀ (r : Requester) (v : Word),
      (s.holds r = true → v = 0x5EA1#32 → ∃ t, exec (.resetcmd r v) s = .next t ∧ t.pkg = 0 ∧
        t.threads = [] ∧ t.blocks = [] ∧ t.regs = State.reset.regs ∧
        (SMap.wf s.mreg = true → (∀ n, 8 ≤ n → SMap.get t.mreg n = SMap.get s.mreg n) ∧
          ∀ n, n < 8 → SMap.get t.mreg n = 0)) ∧
      (s.holds r = true → v ≠ 0x5EA1#32 → exec (.resetcmd r v) s = .next
        (mctpAnswer (if s.regs.mgOwner = 0 then s else startHold s) r true)) ∧
      (s.holds r = false → exec (.resetcmd r v) s = .next (if s.asks r then mctpAnswer s r false else s)) ∧
      (s.holds r = true ↔ s.asks r = true ∧ s.regs.mgOwner = ownerCode r ∧ s.timeUs < s.regs.mgDeadlineUs)) ∧
    (∃ t, exec .powerOnReset s = .next t ∧ t.threads = [] ∧ t.blocks = [] ∧ t.regs = State.reset.regs ∧ t.mem = [] ∧
      t.mreg = []) ∧
    (∀ im : BootImage, (s.up = false → exec (.hostCoreReset im) s = .next s) ∧
      (s.up = true → exec (.hostCoreReset im) s = .next (match verifyImage 5 im with
        | some code => ({ s with regs := { s.regs with bootStage := 4, bootFail := some code } } : State).notice
            (.bootFailure code)
        | none => extendMreg s 4 im.digest))) ∧
    (∀ (ws : List Nat) (j : Nat), s.regs.bootStage < 3 → exec (.clockUpdate ws j) s = .next s) ∧
    (∀ (ws : List Nat) (j : Nat), 3 ≤ s.regs.bootStage → ∃ t, exec (.clockUpdate ws j) s = .next t ∧ 800 ≤ t.regs.clkMHz ∧
      t.regs.clkMHz ≤ 2000 ∧ (t.regs.clkMHz - 800) % 25 = 0 ∧ (110 < j → t.regs.clkMHz = 800) ∧
      (let cap := max 2000 (min 5000 (bits s.regs.pwrCap.toNat 15 0))
       (t.regs.clkMHz = 800 ∨ ∃ m w : Nat, 32 ≤ m ∧ m ≤ 80 ∧ t.regs.clkMHz ≤ 25 * m ∧ ws[m - 32]? = some w ∧ w ≤ cap) ∧
       (j ≤ 100 → ∀ m w : Nat, 32 ≤ m → m ≤ 80 → ws[m - 32]? = some w → w ≤ cap → 25 * m ≤ t.regs.clkMHz)) ∧
      (t.halted = true ↔ s.halted = true ∨ 115 ≤ j) ∧ SameMemory s t ∧ t.threads = s.threads) ∧
    exec .thermalTrip s = .next { s with halted := true, ports := s.ports.map (fun p => (p.1, p.2.1, false)) } ∧
    (∀ (l : List (BitVec 16)) (lp6 : List (BitVec 64)) (margin : List (BitVec 16)), ∃ t,
      exec (.healthUpdate ⟨l, lp6, margin⟩) s = .next t ∧ (∀ n, n < 8 → SMap.get t.eol n = l.getD n 0) ∧
      (∀ n, n < 8 → SMap.get t.lp6Wear n = lp6.getD n 0) ∧ (∀ n, n < 68 → SMap.get t.linkMargin n = margin.getD n 0) ∧
      t.regs = s.regs ∧ SameMemory s t) ∧
    (∀ (r : Requester) (off n : Nat) (v : BitVec 256), s.asks r = false → exec (.registerWrite r off n v) s = .next s) ∧
    (∀ (r : Requester) (off : Nat) (v : BitVec 256), s.asks r = true →
      exec (.registerWrite r off 0 v) s = .next (match portRead s r off with
        | some x => if r = .kernel then s else s.notice (.mctp r true (BitVec.ofNat 256 x))
        | none => if r = .mctpPcie ∨ r = .mctpI3c then s.notice (.mctp r false 0) else s)) ∧
    (∀ (r : Requester) (off : Nat), r ≠ .security → 0x1440000 ≤ off → off < 0x1460000 → portRead s r off = none) ∧
    (∀ r : Requester, (∀ q, q < 16 → portRead s r (0x1100000 + 8 * q) = some 0) ∧
      ∀ off ∈ [0x1000040, 0x1100080, 0x1100088, 0x11000B0, 0x1300008, 0x1500014], portRead s r off = some 0) ∧
    (∀ x : Nat, configWrite s 0x1500014 x = some (if x % 2 ^ 32 = 0x5EA1 then packageReset s else s)) ∧
    (∀ x : Nat, ∃ t, kernelWrite s 0x11000AC x = some t ∧
      (t.regs.fqTail ≠ t.regs.fqHead → Notice.hostInterrupt ∈ t.notices)) ∧
    (∀ x : Nat,
      let w := BitVec.ofNat 32 x
      let d := BitVec.ofNat 64 x
      let conf := fun (off : Nat) (r : Regs) => configWrite s off x = some { s with regs := r }
      let kern := fun (off : Nat) (r : Regs) => kernelWrite s off x = some { s with regs := r }
      conf 0x1000000 { s.regs with throt := w &&& 0xFF0FFFFF#32 } ∧
      conf 0x1500000 { s.regs with mgHold := x % 2 ^ 16, mgOwner := if x.testBit 29 then 0 else s.regs.mgOwner } ∧
      conf 0x1500004 { s.regs with
        alarmCfg := if s.regs.alarmCfg.getLsbD 31 then s.regs.alarmCfg else w &&& 0x80000003#32 } ∧
      conf 0x1500008 { s.regs with alarmStat := s.regs.alarmStat &&& ~~~w } ∧
      conf 0x150000C { s.regs with pwrCap := w &&& 0xFFFF#32 } ∧
      kern 0x1100090 { s.regs with dispCfg := w &&& 0xFFFFFF00#32 } ∧ kern 0x11000A0 { s.regs with fqBase := d } ∧
      kern 0x1300000 { s.regs with lendCfg := d } ∧ kern 0x1300020 { s.regs with linkArb := w &&& 0xFF#32 } ∧
      kern 0x1600000 { s.regs with bndBase := d &&& 0xFFFFFFFFFFFF0001#64 } ∧
      (∀ c : Nat, c < 384 → kernelWrite s (0x1200000 + 16 * c) x = some (
        let e := s.slotEntry c
        let st := x / 2 ^ 32 % 8
        if (e.state = 0 ∧ st = 4) ∨ (e.state = 4 ∧ st = 0) then s.setSlot { e with state := st } else s)) ∧
      (∀ n : Nat, n < 256 → kernelWrite s (0x1430000 + 32 * n) x =
        some { s with windows := SMap.set s.windows n (BitVec.ofNat 256 (x / 2 ^ 97) <<< 97) }) ∧
      (∀ n : Nat, n < 65536 → kernelWrite s (0x1440000 + 2 * n) x =
        some { s with outkey := SMap.set s.outkey n (BitVec.ofNat 16 x) }) ∧
      (∀ n : Nat, n < 4096 → kernelWrite s (0x1602000 + 2 * n) x =
        some { s with bndown := SMap.set s.bndown n (BitVec.ofNat 16 x) }) ∧
      (∀ off : Nat, settingBase ≤ off ∨ configWrite s off x = none ∨ kernelWrite s off x = none)) ∧
    (∀ (r : Requester) (off n o k x : Nat) (v : BitVec 256), s.asks r = true → n ≠ 0 →
      writtenValue s off n v = some (o, k, x) →
      (∀ t, r = .security → s.holds r = false → securityWrite s o k x = some t →
        exec (.registerWrite r off n v) s = .next t) ∧
      (∀ t, s.holds r = true → configWrite s o x = some t → exec (.registerWrite r off n v) s =
        .next (mctpAnswer (if t.regs.mgOwner = 0 then t else startHold t) r true)) ∧
      (∀ t, r = .kernel → s.holds r = false → o ≠ 0x1500000 → kernelStore s o k x = some t →
        exec (.registerWrite r off n v) s = .next t) ∧
      (r = .mctpPcie ∨ r = .mctpI3c → s.holds r = false → o ≠ 0x1500000 →
        exec (.registerWrite r off n v) s = .next (s.notice (.mctp r false 0)))) ∧
    (∀ (device : Bool) (a : DWord) (req : ReqKind),
      let k := reqSpan req
      (s.up = false → exec (.hostCoreAccess ⟨device, a⟩ req) s = .next s) ∧
      (s.up = true → s.hole a.toNat k.1 = true → exec (.hostCoreAccess ⟨device, a⟩ req) s = .fault (.hostHole a)) ∧
      (s.up = true → s.hole a.toNat k.1 = false → paTier a.toNat = 3 →
        exec (.hostCoreAccess ⟨device, a⟩ req) s = .next
          ((t3Request s (!device) (paOff a.toNat) req).1.notice
            (.response s.pkg true (t3Request s (!device) (paOff a.toNat) req).2))) ∧
      (s.up = true → s.hole a.toNat k.1 = false → s.remote a.toNat = false → (paTier a.toNat ≤ 1 ∨
          (paTier a.toNat = 2 ∧ extentServes s a.toNat k.2 = true)) →
        exec (.hostCoreAccess ⟨device, a⟩ req) s = .next
          ((serveRequest s a.toNat req).1.notice (.response s.pkg (serveRequest s a.toNat req).2.1
            (serveRequest s a.toNat req).2.2))) ∧
      (s.up = true → s.hole a.toNat k.1 = false → paTier a.toNat = 2 → extentServes s a.toNat k.2 = false →
        exec (.hostCoreAccess ⟨device, a⟩ req) s = .next (s.notice (.response s.pkg false []))))
/-! ## Frames -/

/-- What words that act on registers leave alone. The integer, floating-point and move words and the predicate words,
the words whose results wait under a tag, and branches: memory, caches, tables and queues stay; of every block, its
X-buffer, W-buffer, tiles, accumulators, barriers, sequencer and registers, all stays but the writes in flight of
uniform registers, to which the word adds only those of its destination; every other thread keeps all but the bypass
latches of its lane; of the own thread every vector register but the destination, the return stack, the trap registers,
the loop shadow, the transaction and what is posted stay; TST keeps all but the flags, which a floating-point word may
only add to and an integer word leaves alone. Where no loop level ends at the word, the levels and every predicate but
the destination stay, and the PC is the next word. A CALL keeps the older return entries, and leaves memory alone where
fewer than 16 stand; R87 spills the one that leaves the 16 newest. -/
def Obligations.RegisterWordsFrame : Prop :=
  let keeps := fun (i : Instr) (d : Opnd) (n : Nat) (prd : Option Nat) (flags : Bool) =>
    ∀ (s : State) (c q : Nat), s.actor = .party c [q] → mayIssue i s c q = true →
      let v := (issueState i s c q).thread c q
      SMap.wf v.regs = true →
      ∃ t, exec i s = .next t ∧ SameRest s t ∧ t.agenda = s.agenda ∧
        (∀ c' q', (c' ≠ c ∨ q' ≠ q) → t.thread c' q' = { s.thread c' q' with latches := (t.thread c' q').latches }) ∧
        (∀ c', c' ≠ c → t.block c' = s.block c') ∧ t.block c = { s.block c with uniPend := (t.block c).uniPend } ∧
        (∃ l, (t.block c).uniPend = ((issueState i s c q).block c).uniPend ++ l ∧
          ∀ e ∈ l, RegDst.s e.reg ∈ dstRegs v d n) ∧
        (let u := t.thread c q
         (∀ r, RegDst.v r ∉ dstRegs v d n → SMap.get u.regs r = SMap.get v.regs r) ∧
         u.role = v.role ∧ u.live = v.live ∧ u.stack = v.stack ∧ u.tpc = v.tpc ∧ u.taddr = v.taddr ∧
         u.tcause = v.tcause ∧ u.shadow = v.shadow ∧ u.shadowV = v.shadowV ∧ u.tx = v.tx ∧ u.susp = v.susp ∧
         u.posted = v.posted ∧ u.rfLatch = v.rfLatch ∧ u.relFence = v.relFence ∧
         u.lazyFence = v.lazyFence ∧ u.batch = v.batch ∧
         (flags = false → u.tst = v.tst) ∧ u.tst &&& 0xFFFFFFE0#32 = v.tst &&& 0xFFFFFFE0#32 ∧
         u.tst &&& v.tst = v.tst ∧
         ((∀ l ∈ v.loops, l.last ≠ v.pc) → u.loops = v.loops ∧ u.pc = v.pc + 1 ∧
           ∀ m, prd ≠ some m → u.pred m = v.pred m))
  (∀ w : FForm,
    (∀ i ∈ [Instr.abs w, .add w, .and w, .bfi w, .bfx w, .brev w, .mad w, .max w, .min w, .mul w, .not w, .or w, .sel w,
        .sha w, .shl w, .shr w, .sub w, .xor w, .mov w], keeps i w.d w.ty.regs none false) ∧
    keeps (.clz w) w.d 1 none false ∧ keeps (.popc w) w.d 1 none false ∧ keeps (.lea w) w.d 2 none false ∧
    (∀ i ∈ [Instr.fadd w, .fclass w, .ffma w, .fmax w, .fmin w, .fmul w, .frnd w], keeps i w.d 1 none true) ∧
    keeps (.fcvt w) w.d w.ty.regs none true ∧
    keeps (.cmp w) .zero 0 (some w.prd) false ∧ keeps (.fcmp w) .zero 0 (some w.prd) false ∧
    keeps (.plop w) .zero 0 (some (w.sub.extractLsb' 8 4).toNat) false ∧ keeps (.nop w) .zero 0 none false ∧
    (∀ i ∈ [Instr.fdiv w, .rcp w, .rsq w, .sqrt w, .ex2 w, .lg2 w, .sin w, .cos w, .tanh w, .srd w, .txq w],
      keeps i .zero 0 none false)) ∧
  (∀ w : IForm,
    (∀ i ∈ [Instr.addImm w, .andImm w, .maxImm w, .minImm w, .mulImm w, .orImm w, .shaImm w, .shlImm w, .shrImm w,
        .subImm w, .xorImm w], keeps i w.d w.ty.regs none false) ∧
    keeps (.movi w) w.d 1 none false ∧
    (∀ i ∈ [Instr.faddImm w, .fmaxImm w, .fminImm w, .fmulImm w], keeps i w.d 1 none true)) ∧
  (∀ (i : Instr), ((∃ k g o, i = .bra k g o) ∨ (∃ k l, i = .brm k l) ∨ (∃ w, i = .brx w) ∨ (∃ k g o, i = .call k g o) ∨
      (∃ w, i = .callx w) ∨ (∃ w, i = .lbrk w)) →
    ∀ (s : State) (c q : Nat), s.actor = .party c [q] → mayIssue i s c q = true →
      let v := (issueState i s c q).thread c q
      let calls := (∃ k g o, i = .call k g o) ∨ (∃ w, i = .callx w)
      (calls → v.stack.length < 16) →
      ∃ t, exec i s = .next t ∧ SameRest s t ∧
        (∀ c' q', (c' ≠ c ∨ q' ≠ q) → t.thread c' q' = { s.thread c' q' with latches := (t.thread c' q').latches }) ∧
        (∀ c', t.block c' = (issueState i s c q).block c' ∧
          t.block c' = { s.block c' with uniPend := (t.block c').uniPend }) ∧
        (let u := t.thread c q
         (u.stack = v.stack ∨ (calls ∧ u.stack.dropLast = v.stack)) ∧
         u.regs = v.regs ∧ u.tst = v.tst ∧ u.tpc = v.tpc ∧ u.taddr = v.taddr ∧ u.tcause = v.tcause ∧
         u.shadow = v.shadow ∧ u.tx = v.tx ∧ u.pend = v.pend ∧ u.live = v.live ∧ u.posted = v.posted))

/-- What loads, stores and atomics leave of memory, where no core holds dirty bytes or deltas: a home-performed read of
one byte after the word gives what it gave before. LD, typed or not, leaves every byte; ST, ATOM, CAS and RED every byte
outside those of the element at the physical address that the access check answers, and ST puts its own bytes there, a
typed ST those of its converted lanes. ATOMX leaves every byte of memory, and of the X-buffers every byte outside its
element. In a transaction that goes on, LD, ST, ATOM and CAS leave every byte. Of borrowed bytes (tier 2) it says so
where no slice holds a copy of a borrowed sector, and for a store to a borrowed extent only of that extent and of those
that another lender's extent backs. -/
def Obligations.MemoryWordsFrame : Prop :=
  let seen := fun (s : State) (a : Nat) => (homeRead s a 1).2.1
  let apart := fun (s : State) (pa a : Nat) => paTier a ≠ 2 ∨ (s.borrowLines = [] ∧
    (paTier pa ≠ 2 ∨ s.lenderAddr a / 2 ^ 28 ≠ s.lenderAddr pa / 2 ^ 28 ∨ a / 2 ^ 28 = pa / 2 ^ 28))
  let same := fun (s t : State) => ∀ a, (paTier a ≠ 2 ∨ s.borrowLines = []) → seen t a = seen s a
  let outside := fun (s t : State) (pa n : Nat) => ∀ a, (a < pa ∨ pa + n ≤ a) → apart s pa a → seen t a = seen s a
  ∀ (s : State) (c q : Nat), s.actor = .party c [q] →
    (∀ (w : IForm) (x : Xlated), w.typed = false →
      let u := issueState (.ld w) s c q
      let r := threadAccess u c q (readPair u c q w.a + w.imm.signExtend 64) (sizeBytes w.size) needR 1
      mayIssue (.ld w) s c q = true → guardOn (.ld w) s c q = true → r.2 = .ok x → (r.1.thread c q).tx = none →
      r.1.remote x.pa = false → paTier x.pa ≤ 2 → r.1.rested = true →
      ∃ t, exec (.ld w) s = .next t ∧ same r.1 t) ∧
    (∀ (w : IForm) (x : Xlated) (f : PageFmt), w.typed = true →
      let u := issueState (.ld w) s c q
      let va := readPair u c q w.a + w.imm.signExtend 64
      let count := typedCount w.size w.lane
      let ok := fun (f : PageFmt) => laneOk f w.lane
      let r := threadSpans u c q va (typedSpans ok va count true) needR 1
      mayIssue (.ld w) s c q = true → guardOn (.ld w) s c q = true → r.2 = .ok x → (r.1.thread c q).tx = none →
      pageFmt x.pte.fmt x.pte.geo = some f → typedFault x.pte (some f) ok (va.toNat % 65536) count 1 va x.pa = none →
      r.1.remote x.pa = false → paTier x.pa ≤ 2 → r.1.rested = true →
      ∃ t, exec (.ld w) s = .next t ∧ same r.1 t) ∧
    (∀ (w : IForm) (x : Xlated), w.typed = false →
      let u := issueState (.st w) s c q
      let n := sizeBytes w.size
      let r := threadAccess u c q (readPair u c q w.a + w.imm.signExtend 64) n needW 2
      mayIssue (.st w) s c q = true → guardOn (.st w) s c q = true → (u.thread c q).tx = none → r.2 = .ok x →
      (r.1.thread c q).tx = none → x.pte.bidx = 0 →
      r.1.remote x.pa = false → paTier x.pa ≤ 2 → x.pa % n = 0 → r.1.rested = true → r.1.memWf = true →
      ∃ t, exec (.st w) s = .next t ∧ outside r.1 t x.pa n ∧
        (∀ k, k < n → seen t (x.pa + k) = [BitVec.ofNat 8 (readSrc u c q w.d w.dataRegs / 2 ^ (8 * k))])) ∧
    (∀ (w : IForm) (x : Xlated) (f : PageFmt), w.typed = true →
      let u := issueState (.st w) s c q
      let va := readPair u c q w.a + w.imm.signExtend 64
      let count := typedCount w.size w.lane
      let n := typedBytes f count
      let r := threadSpans u c q va (typedSpans storeFmtOk va count false) needW 2
      mayIssue (.st w) s c q = true → guardOn (.st w) s c q = true → (u.thread c q).tx = none → r.2 = .ok x →
      (r.1.thread c q).tx = none → x.pte.bidx = 0 → pageFmt x.pte.fmt x.pte.geo = some f →
      typedFault x.pte (some f) storeFmtOk (va.toNat % 65536) count 2 va x.pa = none →
      r.1.remote x.pa = false → paTier x.pa ≤ 2 → x.pa % 65536 = va.toNat % 65536 → r.1.rested = true →
      r.1.memWf = true →
      ∃ t, exec (.st w) s = .next t ∧ outside r.1 t x.pa n ∧
        (∀ k, k < n → seen t (x.pa + k) = [(codeBytes f ((storeLanes w count (readSrc u c q w.d w.dataRegs)).map
          (fun v => (encodeLane f w.lane v).1))).getD k 0])) ∧
    (∀ (w : FForm) (x : Xlated), ∀ i ∈ [Instr.atom w, .cas w],
      let u := issueState i s c q
      let n := atomBytes w
      let r := threadAccess u c q (readPair u c q w.a) n needRW 3
      mayIssue i s c q = true → guardOn i s c q = true → r.2 = .ok x → (r.1.thread c q).tx = none →
      releaseFails r.1 c q (releaseScope (r.1.thread c q) w) (readPair u c q w.a) x.pa = none →
      r.1.remote x.pa = false → paTier x.pa ≤ 2 → r.1.rested = true → r.1.memWf = true → (r.1.thread c q).posted = [] →
      ∃ t, exec i s = .next t ∧ outside r.1 t x.pa n) ∧
    (∀ (w : FForm) (x : Xlated),
      let u := issueState (.red w) s c q
      let n := atomBytes w
      let r := threadAccess u c q (readPair u c q w.a) n needRW 3
      mayIssue (.red w) s c q = true → guardOn (.red w) s c q = true → r.2 = .ok x →
      (orderReleases w.order = true → releaseFails r.1 c q w.scope (readPair u c q w.a) x.pa = none) →
      r.1.remote x.pa = false → paTier x.pa ≤ 2 → r.1.rested = true → r.1.memWf = true → (r.1.thread c q).posted = [] →
      ∃ t, exec (.red w) s = .next t ∧ outside r.1 t x.pa n) ∧
    (∀ (w : FForm) (k : Nat × Nat),
      let u := issueState (.atomx w) s c q
      let n := atomBytes w
      mayIssue (.atomx w) s c q = true → guardOn (.atomx w) s c q = true →
      xCheck u c (w.sub.getLsbD 0) (readWord u c q w.a) 0 n n = .ok k →
      releaseFails u c q (u.thread c q).relFence (BitVec.ofNat 64 k.2) 0 = none →
      u.rested = true → (u.thread c q).posted = [] → SMap.wf (u.block k.1).xbuf = true →
      ∃ t, exec (.atomx w) s = .next t ∧ same u t ∧
        ∀ c' a, (c' ≠ k.1 ∨ a < k.2 ∨ k.2 + n ≤ a) → SMap.get (t.block c').xbuf a = SMap.get (u.block c').xbuf a) ∧
    (∀ (i : Instr) (x : Xlated) (t : State),
      let u := issueState i s c q
      let ends := fun (r : State × Except Stop Xlated) => r.2 = .ok x → mayIssue i s c q = true →
        guardOn i s c q = true → (u.thread c q).tx.isSome = true → r.1.rested = true → exec i s = .next t →
        (t.thread c q).tx.isSome = true → same r.1 t
      (∀ w, i = .ld w ∨ i = .st w →
        let va := readPair u c q w.a + w.imm.signExtend 64
        let count := typedCount w.size w.lane
        let need := if i = .ld w then needR else needRW
        let kind := if i = .ld w then 1 else 2
        (w.typed = false → ends (threadAccess u c q va (sizeBytes w.size) need kind)) ∧
        (w.typed = true → ends (threadSpans u c q va (if i = .ld w then
          typedSpans (fun f => laneOk f w.lane) va count true else typedSpans storeFmtOk va count false) need kind))) ∧
      (∀ w, i = .atom w ∨ i = .cas w → ends (threadAccess u c q (readPair u c q w.a) (atomBytes w) needRW 3)))
end

