-- ==== Sys2Proof/Laws/State.lean ====
section
/-! SUPPORT. What each named update of the state leaves alone, one lemma for each field, and what it makes of the field
that it changes. -/

namespace Sys2Proof.Machine

/-! ## State.modThread -/

@[simp] theorem State.modThread_clock (s : State) (c q : Nat) (f : Thread → Thread) : (s.modThread c q f).clock = s.clock := rfl
@[simp] theorem State.modThread_usAcc (s : State) (c q : Nat) (f : Thread → Thread) : (s.modThread c q f).usAcc = s.usAcc := rfl
@[simp] theorem State.modThread_timeUs (s : State) (c q : Nat) (f : Thread → Thread) : (s.modThread c q f).timeUs = s.timeUs := rfl
@[simp] theorem State.modThread_halted (s : State) (c q : Nat) (f : Thread → Thread) : (s.modThread c q f).halted = s.halted := rfl
@[simp] theorem State.modThread_agenda (s : State) (c q : Nat) (f : Thread → Thread) : (s.modThread c q f).agenda = s.agenda := rfl
@[simp] theorem State.modThread_turns (s : State) (c q : Nat) (f : Thread → Thread) : (s.modThread c q f).turns = s.turns := rfl
@[simp] theorem State.modThread_actor (s : State) (c q : Nat) (f : Thread → Thread) : (s.modThread c q f).actor = s.actor := rfl
@[simp] theorem State.modThread_freeCtr (s : State) (c q : Nat) (f : Thread → Thread) : (s.modThread c q f).freeCtr = s.freeCtr := rfl
@[simp] theorem State.modThread_issued (s : State) (c q : Nat) (f : Thread → Thread) : (s.modThread c q f).issued = s.issued := rfl
@[simp] theorem State.modThread_mem (s : State) (c q : Nat) (f : Thread → Thread) : (s.modThread c q f).mem = s.mem := rfl
@[simp] theorem State.modThread_poison (s : State) (c q : Nat) (f : Thread → Thread) : (s.modThread c q f).poison = s.poison := rfl
@[simp] theorem State.modThread_lenderMem (s : State) (c q : Nat) (f : Thread → Thread) : (s.modThread c q f).lenderMem = s.lenderMem := rfl
@[simp] theorem State.modThread_replaced (s : State) (c q : Nat) (f : Thread → Thread) : (s.modThread c q f).replaced = s.replaced := rfl
theorem State.modThread_threads (s : State) (c q : Nat) (f : Thread → Thread) : (s.modThread c q f).threads = s.threads.map (fun t => if t.at c q then f t else t) := rfl
@[simp] theorem State.modThread_blocks (s : State) (c q : Nat) (f : Thread → Thread) : (s.modThread c q f).blocks = s.blocks := rfl
@[simp] theorem State.modThread_cores (s : State) (c q : Nat) (f : Thread → Thread) : (s.modThread c q f).cores = s.cores := rfl
@[simp] theorem State.modThread_slots (s : State) (c q : Nat) (f : Thread → Thread) : (s.modThread c q f).slots = s.slots := rfl
@[simp] theorem State.modThread_copies (s : State) (c q : Nat) (f : Thread → Thread) : (s.modThread c q f).copies = s.copies := rfl
@[simp] theorem State.modThread_nextCopy (s : State) (c q : Nat) (f : Thread → Thread) : (s.modThread c q f).nextCopy = s.nextCopy := rfl
@[simp] theorem State.modThread_parked (s : State) (c q : Nat) (f : Thread → Thread) : (s.modThread c q f).parked = s.parked := rfl
@[simp] theorem State.modThread_parkedFences (s : State) (c q : Nat) (f : Thread → Thread) : (s.modThread c q f).parkedFences = s.parkedFences := rfl
@[simp] theorem State.modThread_chanDead (s : State) (c q : Nat) (f : Thread → Thread) : (s.modThread c q f).chanDead = s.chanDead := rfl
@[simp] theorem State.modThread_releases (s : State) (c q : Nat) (f : Thread → Thread) : (s.modThread c q f).releases = s.releases := rfl
@[simp] theorem State.modThread_foreignWays (s : State) (c q : Nat) (f : Thread → Thread) : (s.modThread c q f).foreignWays = s.foreignWays := rfl
@[simp] theorem State.modThread_borrowLines (s : State) (c q : Nat) (f : Thread → Thread) : (s.modThread c q f).borrowLines = s.borrowLines := rfl
@[simp] theorem State.modThread_sliceLines (s : State) (c q : Nat) (f : Thread → Thread) : (s.modThread c q f).sliceLines = s.sliceLines := rfl
@[simp] theorem State.modThread_failedStacks (s : State) (c q : Nat) (f : Thread → Thread) : (s.modThread c q f).failedStacks = s.failedStacks := rfl
@[simp] theorem State.modThread_xlate (s : State) (c q : Nat) (f : Thread → Thread) : (s.modThread c q f).xlate = s.xlate := rfl
@[simp] theorem State.modThread_leaves (s : State) (c q : Nat) (f : Thread → Thread) : (s.modThread c q f).leaves = s.leaves := rfl
@[simp] theorem State.modThread_bounds (s : State) (c q : Nat) (f : Thread → Thread) : (s.modThread c q f).bounds = s.bounds := rfl
@[simp] theorem State.modThread_congestion (s : State) (c q : Nat) (f : Thread → Thread) : (s.modThread c q f).congestion = s.congestion := rfl
@[simp] theorem State.modThread_memIssues (s : State) (c q : Nat) (f : Thread → Thread) : (s.modThread c q f).memIssues = s.memIssues := rfl
@[simp] theorem State.modThread_invFifo (s : State) (c q : Nat) (f : Thread → Thread) : (s.modThread c q f).invFifo = s.invFifo := rfl
@[simp] theorem State.modThread_invHeld (s : State) (c q : Nat) (f : Thread → Thread) : (s.modThread c q f).invHeld = s.invHeld := rfl
@[simp] theorem State.modThread_rqFifo (s : State) (c q : Nat) (f : Thread → Thread) : (s.modThread c q f).rqFifo = s.rqFifo := rfl
@[simp] theorem State.modThread_routes (s : State) (c q : Nat) (f : Thread → Thread) : (s.modThread c q f).routes = s.routes := rfl
@[simp] theorem State.modThread_ready (s : State) (c q : Nat) (f : Thread → Thread) : (s.modThread c q f).ready = s.ready := rfl
@[simp] theorem State.modThread_flagsMet (s : State) (c q : Nat) (f : Thread → Thread) : (s.modThread c q f).flagsMet = s.flagsMet := rfl
@[simp] theorem State.modThread_fqWait (s : State) (c q : Nat) (f : Thread → Thread) : (s.modThread c q f).fqWait = s.fqWait := rfl
@[simp] theorem State.modThread_regs (s : State) (c q : Nat) (f : Thread → Thread) : (s.modThread c q f).regs = s.regs := rfl
@[simp] theorem State.modThread_cadastre (s : State) (c q : Nat) (f : Thread → Thread) : (s.modThread c q f).cadastre = s.cadastre := rfl
@[simp] theorem State.modThread_offers (s : State) (c q : Nat) (f : Thread → Thread) : (s.modThread c q f).offers = s.offers := rfl
@[simp] theorem State.modThread_borrowed (s : State) (c q : Nat) (f : Thread → Thread) : (s.modThread c q f).borrowed = s.borrowed := rfl
@[simp] theorem State.modThread_terms (s : State) (c q : Nat) (f : Thread → Thread) : (s.modThread c q f).terms = s.terms := rfl
@[simp] theorem State.modThread_heard (s : State) (c q : Nat) (f : Thread → Thread) : (s.modThread c q f).heard = s.heard := rfl
@[simp] theorem State.modThread_windows (s : State) (c q : Nat) (f : Thread → Thread) : (s.modThread c q f).windows = s.windows := rfl
@[simp] theorem State.modThread_outkey (s : State) (c q : Nat) (f : Thread → Thread) : (s.modThread c q f).outkey = s.outkey := rfl
@[simp] theorem State.modThread_refusedIn (s : State) (c q : Nat) (f : Thread → Thread) : (s.modThread c q f).refusedIn = s.refusedIn := rfl
@[simp] theorem State.modThread_bndown (s : State) (c q : Nat) (f : Thread → Thread) : (s.modThread c q f).bndown = s.bndown := rfl
@[simp] theorem State.modThread_eol (s : State) (c q : Nat) (f : Thread → Thread) : (s.modThread c q f).eol = s.eol := rfl
@[simp] theorem State.modThread_mreg (s : State) (c q : Nat) (f : Thread → Thread) : (s.modThread c q f).mreg = s.mreg := rfl
@[simp] theorem State.modThread_keys (s : State) (c q : Nat) (f : Thread → Thread) : (s.modThread c q f).keys = s.keys := rfl
@[simp] theorem State.modThread_counters (s : State) (c q : Nat) (f : Thread → Thread) : (s.modThread c q f).counters = s.counters := rfl
@[simp] theorem State.modThread_leakSet (s : State) (c q : Nat) (f : Thread → Thread) : (s.modThread c q f).leakSet = s.leakSet := rfl
@[simp] theorem State.modThread_markedBanks (s : State) (c q : Nat) (f : Thread → Thread) : (s.modThread c q f).markedBanks = s.markedBanks := rfl
@[simp] theorem State.modThread_hbmErrors (s : State) (c q : Nat) (f : Thread → Thread) : (s.modThread c q f).hbmErrors = s.hbmErrors := rfl
@[simp] theorem State.modThread_hbmWear (s : State) (c q : Nat) (f : Thread → Thread) : (s.modThread c q f).hbmWear = s.hbmWear := rfl
@[simp] theorem State.modThread_lp6Wear (s : State) (c q : Nat) (f : Thread → Thread) : (s.modThread c q f).lp6Wear = s.lp6Wear := rfl
@[simp] theorem State.modThread_linkMargin (s : State) (c q : Nat) (f : Thread → Thread) : (s.modThread c q f).linkMargin = s.linkMargin := rfl
@[simp] theorem State.modThread_ports (s : State) (c q : Nat) (f : Thread → Thread) : (s.modThread c q f).ports = s.ports := rfl
@[simp] theorem State.modThread_live (s : State) (c q : Nat) (f : Thread → Thread) : (s.modThread c q f).live = s.live := rfl
@[simp] theorem State.modThread_lost (s : State) (c q : Nat) (f : Thread → Thread) : (s.modThread c q f).lost = s.lost := rfl
@[simp] theorem State.modThread_manager (s : State) (c q : Nat) (f : Thread → Thread) : (s.modThread c q f).manager = s.manager := rfl
@[simp] theorem State.modThread_standby (s : State) (c q : Nat) (f : Thread → Thread) : (s.modThread c q f).standby = s.standby := rfl
@[simp] theorem State.modThread_attested (s : State) (c q : Nat) (f : Thread → Thread) : (s.modThread c q f).attested = s.attested := rfl
@[simp] theorem State.modThread_notices (s : State) (c q : Nat) (f : Thread → Thread) : (s.modThread c q f).notices = s.notices := rfl

/-! ## State.modBlock -/

@[simp] theorem State.modBlock_clock (s : State) (c : Nat) (f : Block → Block) : (s.modBlock c f).clock = s.clock := rfl
@[simp] theorem State.modBlock_usAcc (s : State) (c : Nat) (f : Block → Block) : (s.modBlock c f).usAcc = s.usAcc := rfl
@[simp] theorem State.modBlock_timeUs (s : State) (c : Nat) (f : Block → Block) : (s.modBlock c f).timeUs = s.timeUs := rfl
@[simp] theorem State.modBlock_halted (s : State) (c : Nat) (f : Block → Block) : (s.modBlock c f).halted = s.halted := rfl
@[simp] theorem State.modBlock_agenda (s : State) (c : Nat) (f : Block → Block) : (s.modBlock c f).agenda = s.agenda := rfl
@[simp] theorem State.modBlock_turns (s : State) (c : Nat) (f : Block → Block) : (s.modBlock c f).turns = s.turns := rfl
@[simp] theorem State.modBlock_actor (s : State) (c : Nat) (f : Block → Block) : (s.modBlock c f).actor = s.actor := rfl
@[simp] theorem State.modBlock_freeCtr (s : State) (c : Nat) (f : Block → Block) : (s.modBlock c f).freeCtr = s.freeCtr := rfl
@[simp] theorem State.modBlock_issued (s : State) (c : Nat) (f : Block → Block) : (s.modBlock c f).issued = s.issued := rfl
@[simp] theorem State.modBlock_mem (s : State) (c : Nat) (f : Block → Block) : (s.modBlock c f).mem = s.mem := rfl
@[simp] theorem State.modBlock_poison (s : State) (c : Nat) (f : Block → Block) : (s.modBlock c f).poison = s.poison := rfl
@[simp] theorem State.modBlock_lenderMem (s : State) (c : Nat) (f : Block → Block) : (s.modBlock c f).lenderMem = s.lenderMem := rfl
@[simp] theorem State.modBlock_replaced (s : State) (c : Nat) (f : Block → Block) : (s.modBlock c f).replaced = s.replaced := rfl
@[simp] theorem State.modBlock_threads (s : State) (c : Nat) (f : Block → Block) : (s.modBlock c f).threads = s.threads := rfl
theorem State.modBlock_blocks (s : State) (c : Nat) (f : Block → Block) : (s.modBlock c f).blocks = s.blocks.map (fun b => if b.core == c then f b else b) := rfl
@[simp] theorem State.modBlock_cores (s : State) (c : Nat) (f : Block → Block) : (s.modBlock c f).cores = s.cores := rfl
@[simp] theorem State.modBlock_slots (s : State) (c : Nat) (f : Block → Block) : (s.modBlock c f).slots = s.slots := rfl
@[simp] theorem State.modBlock_copies (s : State) (c : Nat) (f : Block → Block) : (s.modBlock c f).copies = s.copies := rfl
@[simp] theorem State.modBlock_nextCopy (s : State) (c : Nat) (f : Block → Block) : (s.modBlock c f).nextCopy = s.nextCopy := rfl
@[simp] theorem State.modBlock_parked (s : State) (c : Nat) (f : Block → Block) : (s.modBlock c f).parked = s.parked := rfl
@[simp] theorem State.modBlock_parkedFences (s : State) (c : Nat) (f : Block → Block) : (s.modBlock c f).parkedFences = s.parkedFences := rfl
@[simp] theorem State.modBlock_chanDead (s : State) (c : Nat) (f : Block → Block) : (s.modBlock c f).chanDead = s.chanDead := rfl
@[simp] theorem State.modBlock_releases (s : State) (c : Nat) (f : Block → Block) : (s.modBlock c f).releases = s.releases := rfl
@[simp] theorem State.modBlock_foreignWays (s : State) (c : Nat) (f : Block → Block) : (s.modBlock c f).foreignWays = s.foreignWays := rfl
@[simp] theorem State.modBlock_borrowLines (s : State) (c : Nat) (f : Block → Block) : (s.modBlock c f).borrowLines = s.borrowLines := rfl
@[simp] theorem State.modBlock_sliceLines (s : State) (c : Nat) (f : Block → Block) : (s.modBlock c f).sliceLines = s.sliceLines := rfl
@[simp] theorem State.modBlock_failedStacks (s : State) (c : Nat) (f : Block → Block) : (s.modBlock c f).failedStacks = s.failedStacks := rfl
@[simp] theorem State.modBlock_xlate (s : State) (c : Nat) (f : Block → Block) : (s.modBlock c f).xlate = s.xlate := rfl
@[simp] theorem State.modBlock_leaves (s : State) (c : Nat) (f : Block → Block) : (s.modBlock c f).leaves = s.leaves := rfl
@[simp] theorem State.modBlock_bounds (s : State) (c : Nat) (f : Block → Block) : (s.modBlock c f).bounds = s.bounds := rfl
@[simp] theorem State.modBlock_congestion (s : State) (c : Nat) (f : Block → Block) : (s.modBlock c f).congestion = s.congestion := rfl
@[simp] theorem State.modBlock_memIssues (s : State) (c : Nat) (f : Block → Block) : (s.modBlock c f).memIssues = s.memIssues := rfl
@[simp] theorem State.modBlock_invFifo (s : State) (c : Nat) (f : Block → Block) : (s.modBlock c f).invFifo = s.invFifo := rfl
@[simp] theorem State.modBlock_invHeld (s : State) (c : Nat) (f : Block → Block) : (s.modBlock c f).invHeld = s.invHeld := rfl
@[simp] theorem State.modBlock_rqFifo (s : State) (c : Nat) (f : Block → Block) : (s.modBlock c f).rqFifo = s.rqFifo := rfl
@[simp] theorem State.modBlock_routes (s : State) (c : Nat) (f : Block → Block) : (s.modBlock c f).routes = s.routes := rfl
@[simp] theorem State.modBlock_ready (s : State) (c : Nat) (f : Block → Block) : (s.modBlock c f).ready = s.ready := rfl
@[simp] theorem State.modBlock_flagsMet (s : State) (c : Nat) (f : Block → Block) : (s.modBlock c f).flagsMet = s.flagsMet := rfl
@[simp] theorem State.modBlock_fqWait (s : State) (c : Nat) (f : Block → Block) : (s.modBlock c f).fqWait = s.fqWait := rfl
@[simp] theorem State.modBlock_regs (s : State) (c : Nat) (f : Block → Block) : (s.modBlock c f).regs = s.regs := rfl
@[simp] theorem State.modBlock_cadastre (s : State) (c : Nat) (f : Block → Block) : (s.modBlock c f).cadastre = s.cadastre := rfl
@[simp] theorem State.modBlock_offers (s : State) (c : Nat) (f : Block → Block) : (s.modBlock c f).offers = s.offers := rfl
@[simp] theorem State.modBlock_borrowed (s : State) (c : Nat) (f : Block → Block) : (s.modBlock c f).borrowed = s.borrowed := rfl
@[simp] theorem State.modBlock_terms (s : State) (c : Nat) (f : Block → Block) : (s.modBlock c f).terms = s.terms := rfl
@[simp] theorem State.modBlock_heard (s : State) (c : Nat) (f : Block → Block) : (s.modBlock c f).heard = s.heard := rfl
@[simp] theorem State.modBlock_windows (s : State) (c : Nat) (f : Block → Block) : (s.modBlock c f).windows = s.windows := rfl
@[simp] theorem State.modBlock_outkey (s : State) (c : Nat) (f : Block → Block) : (s.modBlock c f).outkey = s.outkey := rfl
@[simp] theorem State.modBlock_refusedIn (s : State) (c : Nat) (f : Block → Block) : (s.modBlock c f).refusedIn = s.refusedIn := rfl
@[simp] theorem State.modBlock_bndown (s : State) (c : Nat) (f : Block → Block) : (s.modBlock c f).bndown = s.bndown := rfl
@[simp] theorem State.modBlock_eol (s : State) (c : Nat) (f : Block → Block) : (s.modBlock c f).eol = s.eol := rfl
@[simp] theorem State.modBlock_mreg (s : State) (c : Nat) (f : Block → Block) : (s.modBlock c f).mreg = s.mreg := rfl
@[simp] theorem State.modBlock_keys (s : State) (c : Nat) (f : Block → Block) : (s.modBlock c f).keys = s.keys := rfl
@[simp] theorem State.modBlock_counters (s : State) (c : Nat) (f : Block → Block) : (s.modBlock c f).counters = s.counters := rfl
@[simp] theorem State.modBlock_leakSet (s : State) (c : Nat) (f : Block → Block) : (s.modBlock c f).leakSet = s.leakSet := rfl
@[simp] theorem State.modBlock_markedBanks (s : State) (c : Nat) (f : Block → Block) : (s.modBlock c f).markedBanks = s.markedBanks := rfl
@[simp] theorem State.modBlock_hbmErrors (s : State) (c : Nat) (f : Block → Block) : (s.modBlock c f).hbmErrors = s.hbmErrors := rfl
@[simp] theorem State.modBlock_hbmWear (s : State) (c : Nat) (f : Block → Block) : (s.modBlock c f).hbmWear = s.hbmWear := rfl
@[simp] theorem State.modBlock_lp6Wear (s : State) (c : Nat) (f : Block → Block) : (s.modBlock c f).lp6Wear = s.lp6Wear := rfl
@[simp] theorem State.modBlock_linkMargin (s : State) (c : Nat) (f : Block → Block) : (s.modBlock c f).linkMargin = s.linkMargin := rfl
@[simp] theorem State.modBlock_ports (s : State) (c : Nat) (f : Block → Block) : (s.modBlock c f).ports = s.ports := rfl
@[simp] theorem State.modBlock_live (s : State) (c : Nat) (f : Block → Block) : (s.modBlock c f).live = s.live := rfl
@[simp] theorem State.modBlock_lost (s : State) (c : Nat) (f : Block → Block) : (s.modBlock c f).lost = s.lost := rfl
@[simp] theorem State.modBlock_manager (s : State) (c : Nat) (f : Block → Block) : (s.modBlock c f).manager = s.manager := rfl
@[simp] theorem State.modBlock_standby (s : State) (c : Nat) (f : Block → Block) : (s.modBlock c f).standby = s.standby := rfl
@[simp] theorem State.modBlock_attested (s : State) (c : Nat) (f : Block → Block) : (s.modBlock c f).attested = s.attested := rfl
@[simp] theorem State.modBlock_notices (s : State) (c : Nat) (f : Block → Block) : (s.modBlock c f).notices = s.notices := rfl

/-! ## State.post -/

@[simp] theorem State.post_clock (s : State) (i : Instr) : (s.post i).clock = s.clock := rfl
@[simp] theorem State.post_usAcc (s : State) (i : Instr) : (s.post i).usAcc = s.usAcc := rfl
@[simp] theorem State.post_timeUs (s : State) (i : Instr) : (s.post i).timeUs = s.timeUs := rfl
@[simp] theorem State.post_halted (s : State) (i : Instr) : (s.post i).halted = s.halted := rfl
@[simp] theorem State.post_agenda (s : State) (i : Instr) : (s.post i).agenda = s.agenda ++ [i] := rfl
@[simp] theorem State.post_turns (s : State) (i : Instr) : (s.post i).turns = s.turns := rfl
@[simp] theorem State.post_actor (s : State) (i : Instr) : (s.post i).actor = s.actor := rfl
@[simp] theorem State.post_freeCtr (s : State) (i : Instr) : (s.post i).freeCtr = s.freeCtr := rfl
@[simp] theorem State.post_issued (s : State) (i : Instr) : (s.post i).issued = s.issued := rfl
@[simp] theorem State.post_mem (s : State) (i : Instr) : (s.post i).mem = s.mem := rfl
@[simp] theorem State.post_poison (s : State) (i : Instr) : (s.post i).poison = s.poison := rfl
@[simp] theorem State.post_lenderMem (s : State) (i : Instr) : (s.post i).lenderMem = s.lenderMem := rfl
@[simp] theorem State.post_replaced (s : State) (i : Instr) : (s.post i).replaced = s.replaced := rfl
@[simp] theorem State.post_threads (s : State) (i : Instr) : (s.post i).threads = s.threads := rfl
@[simp] theorem State.post_blocks (s : State) (i : Instr) : (s.post i).blocks = s.blocks := rfl
@[simp] theorem State.post_cores (s : State) (i : Instr) : (s.post i).cores = s.cores := rfl
@[simp] theorem State.post_slots (s : State) (i : Instr) : (s.post i).slots = s.slots := rfl
@[simp] theorem State.post_copies (s : State) (i : Instr) : (s.post i).copies = s.copies := rfl
@[simp] theorem State.post_nextCopy (s : State) (i : Instr) : (s.post i).nextCopy = s.nextCopy := rfl
@[simp] theorem State.post_parked (s : State) (i : Instr) : (s.post i).parked = s.parked := rfl
@[simp] theorem State.post_parkedFences (s : State) (i : Instr) : (s.post i).parkedFences = s.parkedFences := rfl
@[simp] theorem State.post_chanDead (s : State) (i : Instr) : (s.post i).chanDead = s.chanDead := rfl
@[simp] theorem State.post_releases (s : State) (i : Instr) : (s.post i).releases = s.releases := rfl
@[simp] theorem State.post_foreignWays (s : State) (i : Instr) : (s.post i).foreignWays = s.foreignWays := rfl
@[simp] theorem State.post_borrowLines (s : State) (i : Instr) : (s.post i).borrowLines = s.borrowLines := rfl
@[simp] theorem State.post_sliceLines (s : State) (i : Instr) : (s.post i).sliceLines = s.sliceLines := rfl
@[simp] theorem State.post_failedStacks (s : State) (i : Instr) : (s.post i).failedStacks = s.failedStacks := rfl
@[simp] theorem State.post_xlate (s : State) (i : Instr) : (s.post i).xlate = s.xlate := rfl
@[simp] theorem State.post_leaves (s : State) (i : Instr) : (s.post i).leaves = s.leaves := rfl
@[simp] theorem State.post_bounds (s : State) (i : Instr) : (s.post i).bounds = s.bounds := rfl
@[simp] theorem State.post_congestion (s : State) (i : Instr) : (s.post i).congestion = s.congestion := rfl
@[simp] theorem State.post_memIssues (s : State) (i : Instr) : (s.post i).memIssues = s.memIssues := rfl
@[simp] theorem State.post_invFifo (s : State) (i : Instr) : (s.post i).invFifo = s.invFifo := rfl
@[simp] theorem State.post_invHeld (s : State) (i : Instr) : (s.post i).invHeld = s.invHeld := rfl
@[simp] theorem State.post_rqFifo (s : State) (i : Instr) : (s.post i).rqFifo = s.rqFifo := rfl
@[simp] theorem State.post_routes (s : State) (i : Instr) : (s.post i).routes = s.routes := rfl
@[simp] theorem State.post_ready (s : State) (i : Instr) : (s.post i).ready = s.ready := rfl
@[simp] theorem State.post_flagsMet (s : State) (i : Instr) : (s.post i).flagsMet = s.flagsMet := rfl
@[simp] theorem State.post_fqWait (s : State) (i : Instr) : (s.post i).fqWait = s.fqWait := rfl
@[simp] theorem State.post_regs (s : State) (i : Instr) : (s.post i).regs = s.regs := rfl
@[simp] theorem State.post_cadastre (s : State) (i : Instr) : (s.post i).cadastre = s.cadastre := rfl
@[simp] theorem State.post_offers (s : State) (i : Instr) : (s.post i).offers = s.offers := rfl
@[simp] theorem State.post_borrowed (s : State) (i : Instr) : (s.post i).borrowed = s.borrowed := rfl
@[simp] theorem State.post_terms (s : State) (i : Instr) : (s.post i).terms = s.terms := rfl
@[simp] theorem State.post_heard (s : State) (i : Instr) : (s.post i).heard = s.heard := rfl
@[simp] theorem State.post_windows (s : State) (i : Instr) : (s.post i).windows = s.windows := rfl
@[simp] theorem State.post_outkey (s : State) (i : Instr) : (s.post i).outkey = s.outkey := rfl
@[simp] theorem State.post_refusedIn (s : State) (i : Instr) : (s.post i).refusedIn = s.refusedIn := rfl
@[simp] theorem State.post_bndown (s : State) (i : Instr) : (s.post i).bndown = s.bndown := rfl
@[simp] theorem State.post_eol (s : State) (i : Instr) : (s.post i).eol = s.eol := rfl
@[simp] theorem State.post_mreg (s : State) (i : Instr) : (s.post i).mreg = s.mreg := rfl
@[simp] theorem State.post_keys (s : State) (i : Instr) : (s.post i).keys = s.keys := rfl
@[simp] theorem State.post_counters (s : State) (i : Instr) : (s.post i).counters = s.counters := rfl
@[simp] theorem State.post_leakSet (s : State) (i : Instr) : (s.post i).leakSet = s.leakSet := rfl
@[simp] theorem State.post_markedBanks (s : State) (i : Instr) : (s.post i).markedBanks = s.markedBanks := rfl
@[simp] theorem State.post_hbmErrors (s : State) (i : Instr) : (s.post i).hbmErrors = s.hbmErrors := rfl
@[simp] theorem State.post_hbmWear (s : State) (i : Instr) : (s.post i).hbmWear = s.hbmWear := rfl
@[simp] theorem State.post_lp6Wear (s : State) (i : Instr) : (s.post i).lp6Wear = s.lp6Wear := rfl
@[simp] theorem State.post_linkMargin (s : State) (i : Instr) : (s.post i).linkMargin = s.linkMargin := rfl
@[simp] theorem State.post_ports (s : State) (i : Instr) : (s.post i).ports = s.ports := rfl
@[simp] theorem State.post_live (s : State) (i : Instr) : (s.post i).live = s.live := rfl
@[simp] theorem State.post_lost (s : State) (i : Instr) : (s.post i).lost = s.lost := rfl
@[simp] theorem State.post_manager (s : State) (i : Instr) : (s.post i).manager = s.manager := rfl
@[simp] theorem State.post_standby (s : State) (i : Instr) : (s.post i).standby = s.standby := rfl
@[simp] theorem State.post_attested (s : State) (i : Instr) : (s.post i).attested = s.attested := rfl
@[simp] theorem State.post_notices (s : State) (i : Instr) : (s.post i).notices = s.notices := rfl

/-! ## State.notice -/

@[simp] theorem State.notice_clock (s : State) (n : Notice) : (s.notice n).clock = s.clock := rfl
@[simp] theorem State.notice_usAcc (s : State) (n : Notice) : (s.notice n).usAcc = s.usAcc := rfl
@[simp] theorem State.notice_timeUs (s : State) (n : Notice) : (s.notice n).timeUs = s.timeUs := rfl
@[simp] theorem State.notice_halted (s : State) (n : Notice) : (s.notice n).halted = s.halted := rfl
@[simp] theorem State.notice_agenda (s : State) (n : Notice) : (s.notice n).agenda = s.agenda := rfl
@[simp] theorem State.notice_turns (s : State) (n : Notice) : (s.notice n).turns = s.turns := rfl
@[simp] theorem State.notice_actor (s : State) (n : Notice) : (s.notice n).actor = s.actor := rfl
@[simp] theorem State.notice_freeCtr (s : State) (n : Notice) : (s.notice n).freeCtr = s.freeCtr := rfl
@[simp] theorem State.notice_issued (s : State) (n : Notice) : (s.notice n).issued = s.issued := rfl
@[simp] theorem State.notice_mem (s : State) (n : Notice) : (s.notice n).mem = s.mem := rfl
@[simp] theorem State.notice_poison (s : State) (n : Notice) : (s.notice n).poison = s.poison := rfl
@[simp] theorem State.notice_lenderMem (s : State) (n : Notice) : (s.notice n).lenderMem = s.lenderMem := rfl
@[simp] theorem State.notice_replaced (s : State) (n : Notice) : (s.notice n).replaced = s.replaced := rfl
@[simp] theorem State.notice_threads (s : State) (n : Notice) : (s.notice n).threads = s.threads := rfl
@[simp] theorem State.notice_blocks (s : State) (n : Notice) : (s.notice n).blocks = s.blocks := rfl
@[simp] theorem State.notice_cores (s : State) (n : Notice) : (s.notice n).cores = s.cores := rfl
@[simp] theorem State.notice_slots (s : State) (n : Notice) : (s.notice n).slots = s.slots := rfl
@[simp] theorem State.notice_copies (s : State) (n : Notice) : (s.notice n).copies = s.copies := rfl
@[simp] theorem State.notice_nextCopy (s : State) (n : Notice) : (s.notice n).nextCopy = s.nextCopy := rfl
@[simp] theorem State.notice_parked (s : State) (n : Notice) : (s.notice n).parked = s.parked := rfl
@[simp] theorem State.notice_parkedFences (s : State) (n : Notice) : (s.notice n).parkedFences = s.parkedFences := rfl
@[simp] theorem State.notice_chanDead (s : State) (n : Notice) : (s.notice n).chanDead = s.chanDead := rfl
@[simp] theorem State.notice_releases (s : State) (n : Notice) : (s.notice n).releases = s.releases := rfl
@[simp] theorem State.notice_foreignWays (s : State) (n : Notice) : (s.notice n).foreignWays = s.foreignWays := rfl
@[simp] theorem State.notice_borrowLines (s : State) (n : Notice) : (s.notice n).borrowLines = s.borrowLines := rfl
@[simp] theorem State.notice_sliceLines (s : State) (n : Notice) : (s.notice n).sliceLines = s.sliceLines := rfl
@[simp] theorem State.notice_failedStacks (s : State) (n : Notice) : (s.notice n).failedStacks = s.failedStacks := rfl
@[simp] theorem State.notice_xlate (s : State) (n : Notice) : (s.notice n).xlate = s.xlate := rfl
@[simp] theorem State.notice_leaves (s : State) (n : Notice) : (s.notice n).leaves = s.leaves := rfl
@[simp] theorem State.notice_bounds (s : State) (n : Notice) : (s.notice n).bounds = s.bounds := rfl
@[simp] theorem State.notice_congestion (s : State) (n : Notice) : (s.notice n).congestion = s.congestion := rfl
@[simp] theorem State.notice_memIssues (s : State) (n : Notice) : (s.notice n).memIssues = s.memIssues := rfl
@[simp] theorem State.notice_invFifo (s : State) (n : Notice) : (s.notice n).invFifo = s.invFifo := rfl
@[simp] theorem State.notice_invHeld (s : State) (n : Notice) : (s.notice n).invHeld = s.invHeld := rfl
@[simp] theorem State.notice_rqFifo (s : State) (n : Notice) : (s.notice n).rqFifo = s.rqFifo := rfl
@[simp] theorem State.notice_routes (s : State) (n : Notice) : (s.notice n).routes = s.routes := rfl
@[simp] theorem State.notice_ready (s : State) (n : Notice) : (s.notice n).ready = s.ready := rfl
@[simp] theorem State.notice_flagsMet (s : State) (n : Notice) : (s.notice n).flagsMet = s.flagsMet := rfl
@[simp] theorem State.notice_fqWait (s : State) (n : Notice) : (s.notice n).fqWait = s.fqWait := rfl
@[simp] theorem State.notice_regs (s : State) (n : Notice) : (s.notice n).regs = s.regs := rfl
@[simp] theorem State.notice_cadastre (s : State) (n : Notice) : (s.notice n).cadastre = s.cadastre := rfl
@[simp] theorem State.notice_offers (s : State) (n : Notice) : (s.notice n).offers = s.offers := rfl
@[simp] theorem State.notice_borrowed (s : State) (n : Notice) : (s.notice n).borrowed = s.borrowed := rfl
@[simp] theorem State.notice_terms (s : State) (n : Notice) : (s.notice n).terms = s.terms := rfl
@[simp] theorem State.notice_heard (s : State) (n : Notice) : (s.notice n).heard = s.heard := rfl
@[simp] theorem State.notice_windows (s : State) (n : Notice) : (s.notice n).windows = s.windows := rfl
@[simp] theorem State.notice_outkey (s : State) (n : Notice) : (s.notice n).outkey = s.outkey := rfl
@[simp] theorem State.notice_refusedIn (s : State) (n : Notice) : (s.notice n).refusedIn = s.refusedIn := rfl
@[simp] theorem State.notice_bndown (s : State) (n : Notice) : (s.notice n).bndown = s.bndown := rfl
@[simp] theorem State.notice_eol (s : State) (n : Notice) : (s.notice n).eol = s.eol := rfl
@[simp] theorem State.notice_mreg (s : State) (n : Notice) : (s.notice n).mreg = s.mreg := rfl
@[simp] theorem State.notice_keys (s : State) (n : Notice) : (s.notice n).keys = s.keys := rfl
@[simp] theorem State.notice_counters (s : State) (n : Notice) : (s.notice n).counters = s.counters := rfl
@[simp] theorem State.notice_leakSet (s : State) (n : Notice) : (s.notice n).leakSet = s.leakSet := rfl
@[simp] theorem State.notice_markedBanks (s : State) (n : Notice) : (s.notice n).markedBanks = s.markedBanks := rfl
@[simp] theorem State.notice_hbmErrors (s : State) (n : Notice) : (s.notice n).hbmErrors = s.hbmErrors := rfl
@[simp] theorem State.notice_hbmWear (s : State) (n : Notice) : (s.notice n).hbmWear = s.hbmWear := rfl
@[simp] theorem State.notice_lp6Wear (s : State) (n : Notice) : (s.notice n).lp6Wear = s.lp6Wear := rfl
@[simp] theorem State.notice_linkMargin (s : State) (n : Notice) : (s.notice n).linkMargin = s.linkMargin := rfl
@[simp] theorem State.notice_ports (s : State) (n : Notice) : (s.notice n).ports = s.ports := rfl
@[simp] theorem State.notice_live (s : State) (n : Notice) : (s.notice n).live = s.live := rfl
@[simp] theorem State.notice_lost (s : State) (n : Notice) : (s.notice n).lost = s.lost := rfl
@[simp] theorem State.notice_manager (s : State) (n : Notice) : (s.notice n).manager = s.manager := rfl
@[simp] theorem State.notice_standby (s : State) (n : Notice) : (s.notice n).standby = s.standby := rfl
@[simp] theorem State.notice_attested (s : State) (n : Notice) : (s.notice n).attested = s.attested := rfl
@[simp] theorem State.notice_notices (s : State) (n : Notice) : (s.notice n).notices = s.notices ++ [n] := rfl

/-! ## State.setAgenda -/

@[simp] theorem State.setAgenda_clock (s : State) (l : List Instr) : (s.setAgenda l).clock = s.clock := rfl
@[simp] theorem State.setAgenda_usAcc (s : State) (l : List Instr) : (s.setAgenda l).usAcc = s.usAcc := rfl
@[simp] theorem State.setAgenda_timeUs (s : State) (l : List Instr) : (s.setAgenda l).timeUs = s.timeUs := rfl
@[simp] theorem State.setAgenda_halted (s : State) (l : List Instr) : (s.setAgenda l).halted = s.halted := rfl
@[simp] theorem State.setAgenda_agenda (s : State) (l : List Instr) : (s.setAgenda l).agenda = l := rfl
@[simp] theorem State.setAgenda_turns (s : State) (l : List Instr) : (s.setAgenda l).turns = s.turns := rfl
@[simp] theorem State.setAgenda_actor (s : State) (l : List Instr) : (s.setAgenda l).actor = s.actor := rfl
@[simp] theorem State.setAgenda_freeCtr (s : State) (l : List Instr) : (s.setAgenda l).freeCtr = s.freeCtr := rfl
@[simp] theorem State.setAgenda_issued (s : State) (l : List Instr) : (s.setAgenda l).issued = s.issued := rfl
@[simp] theorem State.setAgenda_mem (s : State) (l : List Instr) : (s.setAgenda l).mem = s.mem := rfl
@[simp] theorem State.setAgenda_poison (s : State) (l : List Instr) : (s.setAgenda l).poison = s.poison := rfl
@[simp] theorem State.setAgenda_lenderMem (s : State) (l : List Instr) : (s.setAgenda l).lenderMem = s.lenderMem := rfl
@[simp] theorem State.setAgenda_replaced (s : State) (l : List Instr) : (s.setAgenda l).replaced = s.replaced := rfl
@[simp] theorem State.setAgenda_threads (s : State) (l : List Instr) : (s.setAgenda l).threads = s.threads := rfl
@[simp] theorem State.setAgenda_blocks (s : State) (l : List Instr) : (s.setAgenda l).blocks = s.blocks := rfl
@[simp] theorem State.setAgenda_cores (s : State) (l : List Instr) : (s.setAgenda l).cores = s.cores := rfl
@[simp] theorem State.setAgenda_slots (s : State) (l : List Instr) : (s.setAgenda l).slots = s.slots := rfl
@[simp] theorem State.setAgenda_copies (s : State) (l : List Instr) : (s.setAgenda l).copies = s.copies := rfl
@[simp] theorem State.setAgenda_nextCopy (s : State) (l : List Instr) : (s.setAgenda l).nextCopy = s.nextCopy := rfl
@[simp] theorem State.setAgenda_parked (s : State) (l : List Instr) : (s.setAgenda l).parked = s.parked := rfl
@[simp] theorem State.setAgenda_parkedFences (s : State) (l : List Instr) : (s.setAgenda l).parkedFences = s.parkedFences := rfl
@[simp] theorem State.setAgenda_chanDead (s : State) (l : List Instr) : (s.setAgenda l).chanDead = s.chanDead := rfl
@[simp] theorem State.setAgenda_releases (s : State) (l : List Instr) : (s.setAgenda l).releases = s.releases := rfl
@[simp] theorem State.setAgenda_foreignWays (s : State) (l : List Instr) : (s.setAgenda l).foreignWays = s.foreignWays := rfl
@[simp] theorem State.setAgenda_borrowLines (s : State) (l : List Instr) : (s.setAgenda l).borrowLines = s.borrowLines := rfl
@[simp] theorem State.setAgenda_sliceLines (s : State) (l : List Instr) : (s.setAgenda l).sliceLines = s.sliceLines := rfl
@[simp] theorem State.setAgenda_failedStacks (s : State) (l : List Instr) : (s.setAgenda l).failedStacks = s.failedStacks := rfl
@[simp] theorem State.setAgenda_xlate (s : State) (l : List Instr) : (s.setAgenda l).xlate = s.xlate := rfl
@[simp] theorem State.setAgenda_leaves (s : State) (l : List Instr) : (s.setAgenda l).leaves = s.leaves := rfl
@[simp] theorem State.setAgenda_bounds (s : State) (l : List Instr) : (s.setAgenda l).bounds = s.bounds := rfl
@[simp] theorem State.setAgenda_congestion (s : State) (l : List Instr) : (s.setAgenda l).congestion = s.congestion := rfl
@[simp] theorem State.setAgenda_memIssues (s : State) (l : List Instr) : (s.setAgenda l).memIssues = s.memIssues := rfl
@[simp] theorem State.setAgenda_invFifo (s : State) (l : List Instr) : (s.setAgenda l).invFifo = s.invFifo := rfl
@[simp] theorem State.setAgenda_invHeld (s : State) (l : List Instr) : (s.setAgenda l).invHeld = s.invHeld := rfl
@[simp] theorem State.setAgenda_rqFifo (s : State) (l : List Instr) : (s.setAgenda l).rqFifo = s.rqFifo := rfl
@[simp] theorem State.setAgenda_routes (s : State) (l : List Instr) : (s.setAgenda l).routes = s.routes := rfl
@[simp] theorem State.setAgenda_ready (s : State) (l : List Instr) : (s.setAgenda l).ready = s.ready := rfl
@[simp] theorem State.setAgenda_flagsMet (s : State) (l : List Instr) : (s.setAgenda l).flagsMet = s.flagsMet := rfl
@[simp] theorem State.setAgenda_fqWait (s : State) (l : List Instr) : (s.setAgenda l).fqWait = s.fqWait := rfl
@[simp] theorem State.setAgenda_regs (s : State) (l : List Instr) : (s.setAgenda l).regs = s.regs := rfl
@[simp] theorem State.setAgenda_cadastre (s : State) (l : List Instr) : (s.setAgenda l).cadastre = s.cadastre := rfl
@[simp] theorem State.setAgenda_offers (s : State) (l : List Instr) : (s.setAgenda l).offers = s.offers := rfl
@[simp] theorem State.setAgenda_borrowed (s : State) (l : List Instr) : (s.setAgenda l).borrowed = s.borrowed := rfl
@[simp] theorem State.setAgenda_terms (s : State) (l : List Instr) : (s.setAgenda l).terms = s.terms := rfl
@[simp] theorem State.setAgenda_heard (s : State) (l : List Instr) : (s.setAgenda l).heard = s.heard := rfl
@[simp] theorem State.setAgenda_windows (s : State) (l : List Instr) : (s.setAgenda l).windows = s.windows := rfl
@[simp] theorem State.setAgenda_outkey (s : State) (l : List Instr) : (s.setAgenda l).outkey = s.outkey := rfl
@[simp] theorem State.setAgenda_refusedIn (s : State) (l : List Instr) : (s.setAgenda l).refusedIn = s.refusedIn := rfl
@[simp] theorem State.setAgenda_bndown (s : State) (l : List Instr) : (s.setAgenda l).bndown = s.bndown := rfl
@[simp] theorem State.setAgenda_eol (s : State) (l : List Instr) : (s.setAgenda l).eol = s.eol := rfl
@[simp] theorem State.setAgenda_mreg (s : State) (l : List Instr) : (s.setAgenda l).mreg = s.mreg := rfl
@[simp] theorem State.setAgenda_keys (s : State) (l : List Instr) : (s.setAgenda l).keys = s.keys := rfl
@[simp] theorem State.setAgenda_counters (s : State) (l : List Instr) : (s.setAgenda l).counters = s.counters := rfl
@[simp] theorem State.setAgenda_leakSet (s : State) (l : List Instr) : (s.setAgenda l).leakSet = s.leakSet := rfl
@[simp] theorem State.setAgenda_markedBanks (s : State) (l : List Instr) : (s.setAgenda l).markedBanks = s.markedBanks := rfl
@[simp] theorem State.setAgenda_hbmErrors (s : State) (l : List Instr) : (s.setAgenda l).hbmErrors = s.hbmErrors := rfl
@[simp] theorem State.setAgenda_hbmWear (s : State) (l : List Instr) : (s.setAgenda l).hbmWear = s.hbmWear := rfl
@[simp] theorem State.setAgenda_lp6Wear (s : State) (l : List Instr) : (s.setAgenda l).lp6Wear = s.lp6Wear := rfl
@[simp] theorem State.setAgenda_linkMargin (s : State) (l : List Instr) : (s.setAgenda l).linkMargin = s.linkMargin := rfl
@[simp] theorem State.setAgenda_ports (s : State) (l : List Instr) : (s.setAgenda l).ports = s.ports := rfl
@[simp] theorem State.setAgenda_live (s : State) (l : List Instr) : (s.setAgenda l).live = s.live := rfl
@[simp] theorem State.setAgenda_lost (s : State) (l : List Instr) : (s.setAgenda l).lost = s.lost := rfl
@[simp] theorem State.setAgenda_manager (s : State) (l : List Instr) : (s.setAgenda l).manager = s.manager := rfl
@[simp] theorem State.setAgenda_standby (s : State) (l : List Instr) : (s.setAgenda l).standby = s.standby := rfl
@[simp] theorem State.setAgenda_attested (s : State) (l : List Instr) : (s.setAgenda l).attested = s.attested := rfl
@[simp] theorem State.setAgenda_notices (s : State) (l : List Instr) : (s.setAgenda l).notices = s.notices := rfl

/-! ## State.setTurns -/

@[simp] theorem State.setTurns_clock (s : State) (l : List Turn) : (s.setTurns l).clock = s.clock := rfl
@[simp] theorem State.setTurns_usAcc (s : State) (l : List Turn) : (s.setTurns l).usAcc = s.usAcc := rfl
@[simp] theorem State.setTurns_timeUs (s : State) (l : List Turn) : (s.setTurns l).timeUs = s.timeUs := rfl
@[simp] theorem State.setTurns_halted (s : State) (l : List Turn) : (s.setTurns l).halted = s.halted := rfl
@[simp] theorem State.setTurns_agenda (s : State) (l : List Turn) : (s.setTurns l).agenda = s.agenda := rfl
@[simp] theorem State.setTurns_turns (s : State) (l : List Turn) : (s.setTurns l).turns = l := rfl
@[simp] theorem State.setTurns_actor (s : State) (l : List Turn) : (s.setTurns l).actor = s.actor := rfl
@[simp] theorem State.setTurns_freeCtr (s : State) (l : List Turn) : (s.setTurns l).freeCtr = s.freeCtr := rfl
@[simp] theorem State.setTurns_issued (s : State) (l : List Turn) : (s.setTurns l).issued = s.issued := rfl
@[simp] theorem State.setTurns_mem (s : State) (l : List Turn) : (s.setTurns l).mem = s.mem := rfl
@[simp] theorem State.setTurns_poison (s : State) (l : List Turn) : (s.setTurns l).poison = s.poison := rfl
@[simp] theorem State.setTurns_lenderMem (s : State) (l : List Turn) : (s.setTurns l).lenderMem = s.lenderMem := rfl
@[simp] theorem State.setTurns_replaced (s : State) (l : List Turn) : (s.setTurns l).replaced = s.replaced := rfl
@[simp] theorem State.setTurns_threads (s : State) (l : List Turn) : (s.setTurns l).threads = s.threads := rfl
@[simp] theorem State.setTurns_blocks (s : State) (l : List Turn) : (s.setTurns l).blocks = s.blocks := rfl
@[simp] theorem State.setTurns_cores (s : State) (l : List Turn) : (s.setTurns l).cores = s.cores := rfl
@[simp] theorem State.setTurns_slots (s : State) (l : List Turn) : (s.setTurns l).slots = s.slots := rfl
@[simp] theorem State.setTurns_copies (s : State) (l : List Turn) : (s.setTurns l).copies = s.copies := rfl
@[simp] theorem State.setTurns_nextCopy (s : State) (l : List Turn) : (s.setTurns l).nextCopy = s.nextCopy := rfl
@[simp] theorem State.setTurns_parked (s : State) (l : List Turn) : (s.setTurns l).parked = s.parked := rfl
@[simp] theorem State.setTurns_parkedFences (s : State) (l : List Turn) : (s.setTurns l).parkedFences = s.parkedFences := rfl
@[simp] theorem State.setTurns_chanDead (s : State) (l : List Turn) : (s.setTurns l).chanDead = s.chanDead := rfl
@[simp] theorem State.setTurns_releases (s : State) (l : List Turn) : (s.setTurns l).releases = s.releases := rfl
@[simp] theorem State.setTurns_foreignWays (s : State) (l : List Turn) : (s.setTurns l).foreignWays = s.foreignWays := rfl
@[simp] theorem State.setTurns_borrowLines (s : State) (l : List Turn) : (s.setTurns l).borrowLines = s.borrowLines := rfl
@[simp] theorem State.setTurns_sliceLines (s : State) (l : List Turn) : (s.setTurns l).sliceLines = s.sliceLines := rfl
@[simp] theorem State.setTurns_failedStacks (s : State) (l : List Turn) : (s.setTurns l).failedStacks = s.failedStacks := rfl
@[simp] theorem State.setTurns_xlate (s : State) (l : List Turn) : (s.setTurns l).xlate = s.xlate := rfl
@[simp] theorem State.setTurns_leaves (s : State) (l : List Turn) : (s.setTurns l).leaves = s.leaves := rfl
@[simp] theorem State.setTurns_bounds (s : State) (l : List Turn) : (s.setTurns l).bounds = s.bounds := rfl
@[simp] theorem State.setTurns_congestion (s : State) (l : List Turn) : (s.setTurns l).congestion = s.congestion := rfl
@[simp] theorem State.setTurns_memIssues (s : State) (l : List Turn) : (s.setTurns l).memIssues = s.memIssues := rfl
@[simp] theorem State.setTurns_invFifo (s : State) (l : List Turn) : (s.setTurns l).invFifo = s.invFifo := rfl
@[simp] theorem State.setTurns_invHeld (s : State) (l : List Turn) : (s.setTurns l).invHeld = s.invHeld := rfl
@[simp] theorem State.setTurns_rqFifo (s : State) (l : List Turn) : (s.setTurns l).rqFifo = s.rqFifo := rfl
@[simp] theorem State.setTurns_routes (s : State) (l : List Turn) : (s.setTurns l).routes = s.routes := rfl
@[simp] theorem State.setTurns_ready (s : State) (l : List Turn) : (s.setTurns l).ready = s.ready := rfl
@[simp] theorem State.setTurns_flagsMet (s : State) (l : List Turn) : (s.setTurns l).flagsMet = s.flagsMet := rfl
@[simp] theorem State.setTurns_fqWait (s : State) (l : List Turn) : (s.setTurns l).fqWait = s.fqWait := rfl
@[simp] theorem State.setTurns_regs (s : State) (l : List Turn) : (s.setTurns l).regs = s.regs := rfl
@[simp] theorem State.setTurns_cadastre (s : State) (l : List Turn) : (s.setTurns l).cadastre = s.cadastre := rfl
@[simp] theorem State.setTurns_offers (s : State) (l : List Turn) : (s.setTurns l).offers = s.offers := rfl
@[simp] theorem State.setTurns_borrowed (s : State) (l : List Turn) : (s.setTurns l).borrowed = s.borrowed := rfl
@[simp] theorem State.setTurns_terms (s : State) (l : List Turn) : (s.setTurns l).terms = s.terms := rfl
@[simp] theorem State.setTurns_heard (s : State) (l : List Turn) : (s.setTurns l).heard = s.heard := rfl
@[simp] theorem State.setTurns_windows (s : State) (l : List Turn) : (s.setTurns l).windows = s.windows := rfl
@[simp] theorem State.setTurns_outkey (s : State) (l : List Turn) : (s.setTurns l).outkey = s.outkey := rfl
@[simp] theorem State.setTurns_refusedIn (s : State) (l : List Turn) : (s.setTurns l).refusedIn = s.refusedIn := rfl
@[simp] theorem State.setTurns_bndown (s : State) (l : List Turn) : (s.setTurns l).bndown = s.bndown := rfl
@[simp] theorem State.setTurns_eol (s : State) (l : List Turn) : (s.setTurns l).eol = s.eol := rfl
@[simp] theorem State.setTurns_mreg (s : State) (l : List Turn) : (s.setTurns l).mreg = s.mreg := rfl
@[simp] theorem State.setTurns_keys (s : State) (l : List Turn) : (s.setTurns l).keys = s.keys := rfl
@[simp] theorem State.setTurns_counters (s : State) (l : List Turn) : (s.setTurns l).counters = s.counters := rfl
@[simp] theorem State.setTurns_leakSet (s : State) (l : List Turn) : (s.setTurns l).leakSet = s.leakSet := rfl
@[simp] theorem State.setTurns_markedBanks (s : State) (l : List Turn) : (s.setTurns l).markedBanks = s.markedBanks := rfl
@[simp] theorem State.setTurns_hbmErrors (s : State) (l : List Turn) : (s.setTurns l).hbmErrors = s.hbmErrors := rfl
@[simp] theorem State.setTurns_hbmWear (s : State) (l : List Turn) : (s.setTurns l).hbmWear = s.hbmWear := rfl
@[simp] theorem State.setTurns_lp6Wear (s : State) (l : List Turn) : (s.setTurns l).lp6Wear = s.lp6Wear := rfl
@[simp] theorem State.setTurns_linkMargin (s : State) (l : List Turn) : (s.setTurns l).linkMargin = s.linkMargin := rfl
@[simp] theorem State.setTurns_ports (s : State) (l : List Turn) : (s.setTurns l).ports = s.ports := rfl
@[simp] theorem State.setTurns_live (s : State) (l : List Turn) : (s.setTurns l).live = s.live := rfl
@[simp] theorem State.setTurns_lost (s : State) (l : List Turn) : (s.setTurns l).lost = s.lost := rfl
@[simp] theorem State.setTurns_manager (s : State) (l : List Turn) : (s.setTurns l).manager = s.manager := rfl
@[simp] theorem State.setTurns_standby (s : State) (l : List Turn) : (s.setTurns l).standby = s.standby := rfl
@[simp] theorem State.setTurns_attested (s : State) (l : List Turn) : (s.setTurns l).attested = s.attested := rfl
@[simp] theorem State.setTurns_notices (s : State) (l : List Turn) : (s.setTurns l).notices = s.notices := rfl

/-! ## State.setActor -/

@[simp] theorem State.setActor_clock (s : State) (a : Actor) : (s.setActor a).clock = s.clock := rfl
@[simp] theorem State.setActor_usAcc (s : State) (a : Actor) : (s.setActor a).usAcc = s.usAcc := rfl
@[simp] theorem State.setActor_timeUs (s : State) (a : Actor) : (s.setActor a).timeUs = s.timeUs := rfl
@[simp] theorem State.setActor_halted (s : State) (a : Actor) : (s.setActor a).halted = s.halted := rfl
@[simp] theorem State.setActor_agenda (s : State) (a : Actor) : (s.setActor a).agenda = s.agenda := rfl
@[simp] theorem State.setActor_turns (s : State) (a : Actor) : (s.setActor a).turns = s.turns := rfl
@[simp] theorem State.setActor_actor (s : State) (a : Actor) : (s.setActor a).actor = a := rfl
@[simp] theorem State.setActor_freeCtr (s : State) (a : Actor) : (s.setActor a).freeCtr = s.freeCtr := rfl
@[simp] theorem State.setActor_issued (s : State) (a : Actor) : (s.setActor a).issued = s.issued := rfl
@[simp] theorem State.setActor_mem (s : State) (a : Actor) : (s.setActor a).mem = s.mem := rfl
@[simp] theorem State.setActor_poison (s : State) (a : Actor) : (s.setActor a).poison = s.poison := rfl
@[simp] theorem State.setActor_lenderMem (s : State) (a : Actor) : (s.setActor a).lenderMem = s.lenderMem := rfl
@[simp] theorem State.setActor_replaced (s : State) (a : Actor) : (s.setActor a).replaced = s.replaced := rfl
@[simp] theorem State.setActor_threads (s : State) (a : Actor) : (s.setActor a).threads = s.threads := rfl
@[simp] theorem State.setActor_blocks (s : State) (a : Actor) : (s.setActor a).blocks = s.blocks := rfl
@[simp] theorem State.setActor_cores (s : State) (a : Actor) : (s.setActor a).cores = s.cores := rfl
@[simp] theorem State.setActor_slots (s : State) (a : Actor) : (s.setActor a).slots = s.slots := rfl
@[simp] theorem State.setActor_copies (s : State) (a : Actor) : (s.setActor a).copies = s.copies := rfl
@[simp] theorem State.setActor_nextCopy (s : State) (a : Actor) : (s.setActor a).nextCopy = s.nextCopy := rfl
@[simp] theorem State.setActor_parked (s : State) (a : Actor) : (s.setActor a).parked = s.parked := rfl
@[simp] theorem State.setActor_parkedFences (s : State) (a : Actor) : (s.setActor a).parkedFences = s.parkedFences := rfl
@[simp] theorem State.setActor_chanDead (s : State) (a : Actor) : (s.setActor a).chanDead = s.chanDead := rfl
@[simp] theorem State.setActor_releases (s : State) (a : Actor) : (s.setActor a).releases = s.releases := rfl
@[simp] theorem State.setActor_foreignWays (s : State) (a : Actor) : (s.setActor a).foreignWays = s.foreignWays := rfl
@[simp] theorem State.setActor_borrowLines (s : State) (a : Actor) : (s.setActor a).borrowLines = s.borrowLines := rfl
@[simp] theorem State.setActor_sliceLines (s : State) (a : Actor) : (s.setActor a).sliceLines = s.sliceLines := rfl
@[simp] theorem State.setActor_failedStacks (s : State) (a : Actor) : (s.setActor a).failedStacks = s.failedStacks := rfl
@[simp] theorem State.setActor_xlate (s : State) (a : Actor) : (s.setActor a).xlate = s.xlate := rfl
@[simp] theorem State.setActor_leaves (s : State) (a : Actor) : (s.setActor a).leaves = s.leaves := rfl
@[simp] theorem State.setActor_bounds (s : State) (a : Actor) : (s.setActor a).bounds = s.bounds := rfl
@[simp] theorem State.setActor_congestion (s : State) (a : Actor) : (s.setActor a).congestion = s.congestion := rfl
@[simp] theorem State.setActor_memIssues (s : State) (a : Actor) : (s.setActor a).memIssues = s.memIssues := rfl
@[simp] theorem State.setActor_invFifo (s : State) (a : Actor) : (s.setActor a).invFifo = s.invFifo := rfl
@[simp] theorem State.setActor_invHeld (s : State) (a : Actor) : (s.setActor a).invHeld = s.invHeld := rfl
@[simp] theorem State.setActor_rqFifo (s : State) (a : Actor) : (s.setActor a).rqFifo = s.rqFifo := rfl
@[simp] theorem State.setActor_routes (s : State) (a : Actor) : (s.setActor a).routes = s.routes := rfl
@[simp] theorem State.setActor_ready (s : State) (a : Actor) : (s.setActor a).ready = s.ready := rfl
@[simp] theorem State.setActor_flagsMet (s : State) (a : Actor) : (s.setActor a).flagsMet = s.flagsMet := rfl
@[simp] theorem State.setActor_fqWait (s : State) (a : Actor) : (s.setActor a).fqWait = s.fqWait := rfl
@[simp] theorem State.setActor_regs (s : State) (a : Actor) : (s.setActor a).regs = s.regs := rfl
@[simp] theorem State.setActor_cadastre (s : State) (a : Actor) : (s.setActor a).cadastre = s.cadastre := rfl
@[simp] theorem State.setActor_offers (s : State) (a : Actor) : (s.setActor a).offers = s.offers := rfl
@[simp] theorem State.setActor_borrowed (s : State) (a : Actor) : (s.setActor a).borrowed = s.borrowed := rfl
@[simp] theorem State.setActor_terms (s : State) (a : Actor) : (s.setActor a).terms = s.terms := rfl
@[simp] theorem State.setActor_heard (s : State) (a : Actor) : (s.setActor a).heard = s.heard := rfl
@[simp] theorem State.setActor_windows (s : State) (a : Actor) : (s.setActor a).windows = s.windows := rfl
@[simp] theorem State.setActor_outkey (s : State) (a : Actor) : (s.setActor a).outkey = s.outkey := rfl
@[simp] theorem State.setActor_refusedIn (s : State) (a : Actor) : (s.setActor a).refusedIn = s.refusedIn := rfl
@[simp] theorem State.setActor_bndown (s : State) (a : Actor) : (s.setActor a).bndown = s.bndown := rfl
@[simp] theorem State.setActor_eol (s : State) (a : Actor) : (s.setActor a).eol = s.eol := rfl
@[simp] theorem State.setActor_mreg (s : State) (a : Actor) : (s.setActor a).mreg = s.mreg := rfl
@[simp] theorem State.setActor_keys (s : State) (a : Actor) : (s.setActor a).keys = s.keys := rfl
@[simp] theorem State.setActor_counters (s : State) (a : Actor) : (s.setActor a).counters = s.counters := rfl
@[simp] theorem State.setActor_leakSet (s : State) (a : Actor) : (s.setActor a).leakSet = s.leakSet := rfl
@[simp] theorem State.setActor_markedBanks (s : State) (a : Actor) : (s.setActor a).markedBanks = s.markedBanks := rfl
@[simp] theorem State.setActor_hbmErrors (s : State) (a : Actor) : (s.setActor a).hbmErrors = s.hbmErrors := rfl
@[simp] theorem State.setActor_hbmWear (s : State) (a : Actor) : (s.setActor a).hbmWear = s.hbmWear := rfl
@[simp] theorem State.setActor_lp6Wear (s : State) (a : Actor) : (s.setActor a).lp6Wear = s.lp6Wear := rfl
@[simp] theorem State.setActor_linkMargin (s : State) (a : Actor) : (s.setActor a).linkMargin = s.linkMargin := rfl
@[simp] theorem State.setActor_ports (s : State) (a : Actor) : (s.setActor a).ports = s.ports := rfl
@[simp] theorem State.setActor_live (s : State) (a : Actor) : (s.setActor a).live = s.live := rfl
@[simp] theorem State.setActor_lost (s : State) (a : Actor) : (s.setActor a).lost = s.lost := rfl
@[simp] theorem State.setActor_manager (s : State) (a : Actor) : (s.setActor a).manager = s.manager := rfl
@[simp] theorem State.setActor_standby (s : State) (a : Actor) : (s.setActor a).standby = s.standby := rfl
@[simp] theorem State.setActor_attested (s : State) (a : Actor) : (s.setActor a).attested = s.attested := rfl
@[simp] theorem State.setActor_notices (s : State) (a : Actor) : (s.setActor a).notices = s.notices := rfl

end Sys2Proof.Machine
end

