-- ==== Sys2Proof/Laws/Issue.lean ====
section
/-! SUPPORT. What the issue protocol does, said once: a word given to a party leaves, thread by thread, what the word's
effect leaves of the state in which the thread reads its operands. -/

namespace Sys2Proof.Machine

/-- A thread that may issue a word reaches the word's effect, or under a false guard its other one. -/
theorem issueOne_of_mayIssue {i : Instr} {s : State} {c q : Nat} (on off : Nat → Nat → State → Eff)
    (h : mayIssue i s c q = true) :
    issueOne i on off c s q =
      if guardOn i s c q then finishIssue c q (on c q (issueState i s c q))
      else finishIssue c q (off c q (issueState i s c q)) := by
  simp only [mayIssue, Bool.and_eq_true, Bool.or_eq_true, Bool.not_eq_true', Option.isNone_iff_eq_none] at h
  obtain ⟨⟨⟨⟨hl, hr⟩, hd⟩, ht⟩, hg⟩ := h
  simp only [issueOne, hl, hr, hd, ht, guardOn, issueState, Bool.not_true, Bool.false_eq_true, if_false]
  rcases hg with hg | ⟨⟨hx, hlat⟩, hst⟩
  · simp only [issueState] at hg
    simp [hg]
  · simp only [issueState] at hx hlat hst
    by_cases hh : Guard.holds i.guard ((commitTags (startIssue s c q i.ctl) c q (Ctl.tags i.ctl)).1.thread c q) = true
    · simp [hh, hx, hlat, hst]
    · simp [hh]

/-- A party's word as the fold of its threads' effects. -/
theorem issueWord_of_partyOk {i : Instr} {on off : Nat → Nat → State → Eff} {ok : State → Nat → Nat → Bool}
    {f g : Effect} {c : Nat} {slots : List Nat} {s : State} (ha : s.actor = .party c slots)
    (hf : ∀ u q, ok u c q = true → finishIssue c q (on c q u) = f u c q)
    (hg : ∀ u q, finishIssue c q (off c q u) = g u c q)
    (h : partyOk i ok f g c s slots = true) :
    issueWord i on off s = slots.foldl (memberState i f g c) s := by
  have key : ∀ (l : List Nat) (u : State), partyOk i ok f g c u l = true →
      l.foldl (fun s q => issueOne i on off c s q) u = l.foldl (memberState i f g c) u := by
    intro l
    induction l with
    | nil => intro u _; rfl
    | cons q r ih =>
      intro u hu
      simp only [partyOk, Bool.and_eq_true, Bool.or_eq_true, Bool.not_eq_true'] at hu
      obtain ⟨⟨hm, hk⟩, hr⟩ := hu
      have hq : issueOne i on off c u q = memberState i f g c u q := by
        rw [issueOne_of_mayIssue on off hm, memberState]
        by_cases hgd : guardOn i u c q = true
        · simp only [hgd, if_true]
          exact hf _ _ (hk.resolve_left (by simp [hgd]))
        · simp only [hgd]
          exact hg _ _
      simp only [List.foldl_cons, hq]
      exact ih _ hr
  simp only [issueWord, ha]
  exact key slots s h

/-- A word whose meaning is `issueWord` completes with the effects that its outcomes have. -/
theorem completes_of_issueWord {i : Instr} (on off : Nat → Nat → State → Eff) {ok : State → Nat → Nat → Bool}
    {f g : Effect} (hi : ∀ s, exec i s = .next (issueWord i on off s))
    (hf : ∀ u c q, ok u c q = true → finishIssue c q (on c q u) = f u c q)
    (hg : ∀ u c q, finishIssue c q (off c q u) = g u c q) : Completes i ok f g := by
  intro s c slots ha h
  rw [hi, issueWord_of_partyOk ha (fun u q => hf u c q) (fun u q => hg u c q) h]

/-- The same for the fixed-latency shape. -/
theorem completes_of_fixedWord {i : Instr} (d : Opnd) (nwb : Bool) (n : Nat) (v : Nat → Nat → State → Nat × Flags)
    (hi : ∀ s, exec i s = .next (fixedWord i d nwb n v s)) :
    Completes i always (putFixed d nwb n (fun s c q => v c q s)) (skipFixed d nwb) :=
  completes_of_issueWord _ _ hi (fun _ _ _ _ => rfl) (fun _ _ _ => rfl)

/-- The same for the shape that writes a predicate. -/
theorem completes_of_predWord {i : Instr} (prd : Nat) (v : Nat → Nat → State → Bool)
    (hi : ∀ s, exec i s = .next (predWord i prd v s)) :
    Completes i always (putPred prd (fun s c q => v c q s)) (skipFixed .zero false) :=
  completes_of_issueWord _ _ hi (fun _ _ _ _ => rfl) (fun _ _ _ => rfl)

/-- The same for the shape whose result waits under a tag. -/
theorem completes_of_tagWord {i : Instr} (k : Ctl) (d : Opnd) (n : Nat) (v : Nat → Nat → State → Nat × Flags)
    (hi : ∀ s, exec i s = .next (tagWord i k.alloc d n v s)) :
    Completes i always (putTag k d n (fun s c q => v c q s)) (skipTag k d n) :=
  completes_of_issueWord _ _ hi (fun _ _ _ _ => rfl) (fun _ _ _ => rfl)

/-- A word that one thread issues traps where its effect does. -/
theorem traps_of_issueWord {i : Instr} (on off : State → Nat → Nat → State → Eff)
    {why : State → Nat → Nat → Option (State × Trap)} (hi : ∀ s, exec i s = .next (issueWord i (on s) (off s) s))
    (hw : ∀ s u c q x, why u c q = some x → on s c q u = .trap x.1 x.2) : Traps i why := by
  intro s c q ha hm hg x hx
  rw [hi]
  simp only [issueWord, ha, List.foldl_cons, List.foldl_nil, issueOne_of_mayIssue _ _ hm, hg, if_true,
    hw s _ _ _ _ hx, finishIssue]

/-- Passing a code line changes what stands in a thread or a sequencer alone. -/
theorem State.setLine_rest (s : State) (c who : Nat) (l : Option LineFetch) : SameRest s (s.setLine c who l) := by
  unfold State.setLine
  split <;> exact ⟨rfl, rfl, rfl, rfl, rfl, rfl, rfl, rfl, rfl, rfl, rfl, rfl, rfl, rfl, rfl, rfl, rfl, rfl, rfl, rfl⟩

end Sys2Proof.Machine
end

