-- ==== Sys2Proof/Laws/Sparse.lean ====
section
/-! SUPPORT. Sparse maps: the canonical form as a property of the list, the operations that keep it, and what a read finds
after a write. -/

namespace Sys2Proof.Machine

/-- The canonical form says that keys rise strictly and that no zero is listed. -/
theorem SMap.wf_iff {w : Nat} (m : SMap w) :
    SMap.wf m = true ↔ m.Pairwise (fun x y => x.1 < y.1) ∧ ∀ c ∈ m, c.2 ≠ 0 := by
  induction m with
  | nil => simp [SMap.wf]
  | cons c r ih =>
    obtain ⟨a, x⟩ := c
    cases r with
    | nil => simp [SMap.wf]
    | cons d r =>
      obtain ⟨b, y⟩ := d
      simp only [SMap.wf, Bool.and_eq_true, decide_eq_true_eq, bne_iff_ne, ih]
      simp only [List.pairwise_cons, List.mem_cons, forall_eq_or_imp]
      constructor
      · rintro ⟨⟨hx, hab⟩, ⟨hb, hp⟩, hy, hr⟩
        exact ⟨⟨⟨hab, fun c hc => hab.trans (hb c hc)⟩, hb, hp⟩, hx, hy, hr⟩
      · rintro ⟨⟨⟨hab, -⟩, hb, hp⟩, hx, hy, hr⟩
        exact ⟨⟨hx, hab⟩, ⟨hb, hp⟩, hy, hr⟩

@[simp] theorem SMap.wf_nil {w : Nat} : SMap.wf ([] : SMap w) = true := rfl

/-- A part of a canonical map, in its order, is canonical. -/
theorem SMap.wf_sublist {w : Nat} {m n : SMap w} (h : n.Sublist m) (hm : SMap.wf m = true) : SMap.wf n = true := by
  rw [SMap.wf_iff] at *
  exact ⟨hm.1.sublist h, fun c hc => hm.2 c (h.subset hc)⟩

theorem SMap.wf_keep {w : Nat} {m : SMap w} (p : Nat → Bool) (h : SMap.wf m = true) : SMap.wf (SMap.keep m p) = true :=
  SMap.wf_sublist List.filter_sublist h

/-- A canonical map put in front of another whose keys all lie above it. -/
theorem SMap.wf_append {w : Nat} {m n : SMap w} (hm : SMap.wf m = true) (hn : SMap.wf n = true)
    (h : ∀ c ∈ m, ∀ d ∈ n, c.1 < d.1) : SMap.wf (m ++ n) = true := by
  rw [SMap.wf_iff] at *
  refine ⟨List.pairwise_append.2 ⟨hm.1, hn.1, h⟩, fun c hc => ?_⟩
  rcases List.mem_append.1 hc with hc | hc
  · exact hm.2 c hc
  · exact hn.2 c hc

/-- Keys moved in a way that keeps their order. -/
theorem SMap.wf_map {w : Nat} {m : SMap w} (f : Nat → Nat) (hm : SMap.wf m = true)
    (h : ∀ c ∈ m, ∀ d ∈ m, c.1 < d.1 → f c.1 < f d.1) : SMap.wf (m.map (fun x => (f x.1, x.2))) = true := by
  rw [SMap.wf_iff] at *
  constructor
  · rw [List.pairwise_map]
    exact hm.1.imp_of_mem (fun hc hd hlt => h _ hc _ hd hlt)
  · simp only [List.mem_map, forall_exists_index, and_imp]
    rintro c d hd rfl
    exact hm.2 d hd

theorem SMap.wf_ofFun {w : Nat} (n : Nat) (f : Nat → BitVec w) : SMap.wf (SMap.ofFun n f) = true := by
  rw [SMap.wf_iff, SMap.ofFun]
  constructor
  · rw [List.pairwise_filterMap]
    refine (List.pairwise_lt_range (n := n)).imp (fun {a b} hab c hc d hd => ?_)
    simp only [Option.ite_none_left_eq_some, Option.some.injEq] at hc hd
    rw [← hc.2, ← hd.2]
    exact hab
  · intro c hc
    simp only [List.mem_filterMap, Option.ite_none_left_eq_some, Option.some.injEq] at hc
    obtain ⟨a, -, ha, rfl⟩ := hc
    exact ha

/-- A key of the changed map is the new one or an old one. -/
theorem SMap.mem_set {w : Nat} {m : SMap w} {k : Nat} {v : BitVec w} {c : Nat × BitVec w}
    (h : c ∈ SMap.set m k v) : (c = (k, v) ∧ v ≠ 0) ∨ c ∈ m := by
  induction m with
  | nil =>
    simp only [SMap.set, SMap.push] at h
    split at h <;> simp_all
  | cons d r ih =>
    obtain ⟨a, x⟩ := d
    simp only [SMap.set, SMap.push] at h
    split_ifs at h <;> simp_all <;> tauto

theorem SMap.wf_set {w : Nat} {m : SMap w} (k : Nat) (v : BitVec w) (h : SMap.wf m = true) :
    SMap.wf (SMap.set m k v) = true := by
  induction m with
  | nil =>
    simp only [SMap.set, SMap.push]
    split_ifs with hv
    · rfl
    · simpa [SMap.wf] using hv
  | cons d r ih =>
    obtain ⟨a, x⟩ := d
    have hr : SMap.wf r = true := SMap.wf_sublist (List.sublist_cons_self _ _) h
    have hw := (SMap.wf_iff _).1 h
    simp only [List.pairwise_cons, List.mem_cons, forall_eq_or_imp] at hw
    obtain ⟨⟨hlt, -⟩, hx, -⟩ := hw
    have one : ∀ (b : Nat) (y : BitVec w), y ≠ 0 → SMap.wf [(b, y)] = true := fun b y hy => by simpa [SMap.wf] using hy
    simp only [SMap.set, SMap.push]
    split_ifs with h1 h2 h3 h4
    · exact hr
    · subst h1
      refine SMap.wf_append (m := [(k, v)]) (one k v h2) hr (fun c hc e he => ?_)
      simp only [List.mem_singleton] at hc
      subst hc
      exact hlt e he
    · exact h
    · refine SMap.wf_append (m := [(k, v)]) (one k v h4) h (fun c hc e he => ?_)
      simp only [List.mem_singleton] at hc
      subst hc
      rcases List.mem_cons.1 he with rfl | he
      · exact h3
      · exact h3.trans (hlt e he)
    · refine SMap.wf_append (m := [(a, x)]) (one a x hx) (ih hr) (fun c hc e he => ?_)
      simp only [List.mem_singleton] at hc
      subst hc
      rcases SMap.mem_set he with ⟨rfl, -⟩ | he
      · show a < k
        omega
      · exact hlt e he

theorem writeBytes_wf {m : SMap 8} (a : Nat) (bs : List Byte) (h : SMap.wf m = true) :
    SMap.wf (writeBytes m a bs) = true := by
  induction bs generalizing m a with
  | nil => exact h
  | cons b bs ih => exact ih (a + 1) (SMap.wf_set a b h)

theorem writeLe_wf {m : SMap 8} (a n v : Nat) (h : SMap.wf m = true) : SMap.wf (writeLe m a n v) = true :=
  writeBytes_wf a _ h

/-- A key below every listed one reads as zero. -/
theorem SMap.get_below {w : Nat} {m : SMap w} {k : Nat} (h : ∀ c ∈ m, k < c.1) : SMap.get m k = 0 := by
  cases m with
  | nil => rfl
  | cons d r =>
    have := h d (by simp)
    simp only [SMap.get]
    rw [if_neg (by omega), if_pos this]

/-- What a read finds after a write of one key. -/
theorem SMap.get_set {w : Nat} {m : SMap w} (k j : Nat) (v : BitVec w) (h : SMap.wf m = true) :
    SMap.get (SMap.set m k v) j = if j = k then v else SMap.get m j := by
  induction m with
  | nil =>
    simp only [SMap.set, SMap.push, SMap.get]
    split_ifs <;> simp_all [SMap.get]
  | cons d r ih =>
    obtain ⟨a, x⟩ := d
    have hr : SMap.wf r = true := SMap.wf_sublist (List.sublist_cons_self _ _) h
    have hlt : ∀ c ∈ r, a < c.1 := by
      have hw := (SMap.wf_iff _).1 h
      exact (List.pairwise_cons.1 hw.1).1
    by_cases h1 : k = a
    · subst h1
      simp only [SMap.set, SMap.push, if_true]
      by_cases hv : v = 0
      · simp only [hv, if_true]
        by_cases hj : j = k
        · subst hj
          simpa using SMap.get_below hlt
        · simp only [hj, if_false, SMap.get]
          by_cases hjk : j < k
          · simp only [hjk, if_true]
            exact SMap.get_below (fun c hc => hjk.trans (hlt c hc))
          · simp [hjk]
      · simp only [hv, if_false, SMap.get]
        by_cases hj : j = k <;> simp [hj]
    · by_cases h2 : k < a
      · simp only [SMap.set, SMap.push, h1, h2, if_true, if_false]
        by_cases hv : v = 0
        · simp only [hv, if_true]
          by_cases hj : j = k
          · subst hj
            simp [SMap.get, h1, h2]
          · simp [hj]
        · simp only [hv, if_false]
          rw [SMap.get]
          by_cases hj : j = k
          · simp [hj]
          · simp only [hj, if_false]
            by_cases hjk : j < k
            · simp only [hjk, if_true, SMap.get]
              rw [if_neg (by omega), if_pos (by omega)]
            · simp [hjk]
      · simp only [SMap.set, h1, h2, if_false, SMap.get, ih hr]
        by_cases hj : j = a
        · have : j ≠ k := by omega
          simp [hj]
          omega
        · by_cases hja : j < a
          · have : j ≠ k := by omega
            simp [hj, hja, this]
          · simp [hj, hja]

@[simp] theorem SMap.get_set_self {w : Nat} {m : SMap w} (k : Nat) (v : BitVec w) (h : SMap.wf m = true) :
    SMap.get (SMap.set m k v) k = v := by simp [SMap.get_set k k v h]

theorem SMap.get_set_other {w : Nat} {m : SMap w} {k j : Nat} (v : BitVec w) (h : SMap.wf m = true) (hj : j ≠ k) :
    SMap.get (SMap.set m k v) j = SMap.get m j := by simp [SMap.get_set k j v h, hj]

/-- A byte outside a run that is written keeps its value. -/
theorem get_writeBytes_outside {m : SMap 8} {a j : Nat} (bs : List Byte) (h : SMap.wf m = true)
    (hj : j < a ∨ a + bs.length ≤ j) : SMap.get (writeBytes m a bs) j = SMap.get m j := by
  induction bs generalizing m a with
  | nil => rfl
  | cons b bs ih =>
    simp only [List.length_cons] at hj
    rw [writeBytes, ih (SMap.wf_set a b h) (by omega), SMap.get_set_other b h (by omega)]

/-- A byte inside a run that is written is the run's. -/
theorem get_writeBytes_inside {m : SMap 8} {a i : Nat} {bs : List Byte} (h : SMap.wf m = true) (hi : i < bs.length) :
    SMap.get (writeBytes m a bs) (a + i) = bs[i] := by
  induction bs generalizing m a i with
  | nil => simp at hi
  | cons b bs ih =>
    cases i with
    | zero =>
      rw [writeBytes, get_writeBytes_outside bs (SMap.wf_set a b h) (by omega)]
      simpa using SMap.get_set_self a b h
    | succ i =>
      have := ih (m := SMap.set m a b) (a := a + 1) (i := i) (SMap.wf_set a b h) (by simpa using hi)
      rw [writeBytes]
      simpa [Nat.add_assoc, Nat.add_comm 1 i] using this

/-- A read of a run that was just written. -/
theorem readBytes_writeBytes {m : SMap 8} (a : Nat) (bs : List Byte) (h : SMap.wf m = true) :
    readBytes (writeBytes m a bs) a bs.length = bs := by
  induction bs generalizing m a with
  | nil => rfl
  | cons b bs ih =>
    simp only [List.length_cons, readBytes, writeBytes]
    rw [ih (a + 1) (SMap.wf_set a b h), get_writeBytes_outside bs (SMap.wf_set a b h) (by omega),
      SMap.get_set_self a b h]

end Sys2Proof.Machine
end

