-- ==== Sys2Proof/Laws/Memory.lean ====
section
/-! SUPPORT. Every memory operation keeps the canonical form, and what the operations on L1 leave alone. -/

namespace Sys2Proof.Machine

/-- The canonical form looks at two fields only. -/
theorem State.memWf_congr {s t : State} (h1 : t.mem = s.mem) (h2 : t.lenderMem = s.lenderMem) (h : s.memWf = true) :
    t.memWf = true := by
  rw [State.memWf, h1, h2]
  exact h

theorem State.memWf_intro {s : State} {m l : SMap 8} (h1 : SMap.wf m = true) (h2 : SMap.wf l = true)
    (e1 : s.mem = m) (e2 : s.lenderMem = l) : s.memWf = true := by
  simp [State.memWf, Memory.wf, e1, e2, h1, h2]

theorem State.memWf_mem {s : State} (h : s.memWf = true) : SMap.wf s.mem = true := by
  simp only [State.memWf, Memory.wf, Bool.and_eq_true] at h
  exact h.1

theorem State.memWf_lender {s : State} (h : s.memWf = true) : SMap.wf s.lenderMem = true := by
  simp only [State.memWf, Memory.wf, Bool.and_eq_true] at h
  exact h.2

/-- Memory right after reset lists nothing. -/
theorem State.memWf_reset : State.reset.memWf = true := rfl

@[simp] theorem State.memWf_modThread (s : State) (c q : Nat) (f : Thread → Thread) :
    (s.modThread c q f).memWf = s.memWf := rfl
@[simp] theorem State.memWf_modBlock (s : State) (c : Nat) (f : Block → Block) : (s.modBlock c f).memWf = s.memWf := rfl
@[simp] theorem State.memWf_modCore (s : State) (c : Nat) (f : CoreRec → CoreRec) :
    (s.modCore c f).memWf = s.memWf := by
  unfold State.modCore State.memWf
  split <;> rfl
@[simp] theorem State.memWf_setSlot (s : State) (e : SlotEntry) : (s.setSlot e).memWf = s.memWf := rfl
@[simp] theorem State.memWf_post (s : State) (i : Instr) : (s.post i).memWf = s.memWf := rfl
@[simp] theorem State.memWf_notice (s : State) (n : Notice) : (s.notice n).memWf = s.memWf := rfl
@[simp] theorem State.memWf_setAgenda (s : State) (l : List Instr) : (s.setAgenda l).memWf = s.memWf := rfl
@[simp] theorem State.memWf_setTurns (s : State) (l : List Turn) : (s.setTurns l).memWf = s.memWf := rfl
@[simp] theorem State.memWf_setActor (s : State) (a : Actor) : (s.setActor a).memWf = s.memWf := rfl
@[simp] theorem State.memWf_takeBool (s : State) : s.takeBool.2.memWf = s.memWf := rfl
@[simp] theorem State.memWf_takeNat (s : State) (n : Nat) : (s.takeNat n).2.memWf = s.memWf := rfl

/-- What keeps the canonical form keeps it through a whole list. -/
theorem State.memWf_foldl {α : Type} (f : State → α → State) (hf : ∀ s a, s.memWf = true → (f s a).memWf = true)
    (l : List α) (s : State) (h : s.memWf = true) : (l.foldl f s).memWf = true := by
  induction l generalizing s with
  | nil => exact h
  | cons a l ih => exact ih _ (hf s a h)

/-! ## Bytes at the home -/

@[simp] theorem putBorrow_memWf (s : State) (k : Nat) (x : Sector) (dirty : Bool) :
    (putBorrow s k x dirty).memWf = s.memWf := by
  unfold putBorrow
  split <;> rfl

/-- Writes one after another, each at an address and of bytes that an element gives. -/
theorem writeAll_wf {α : Type} (addr : α → Nat) (bytes : α → List Byte) (l : List α) (m : SMap 8)
    (h : SMap.wf m = true) : SMap.wf (l.foldl (fun m x => writeBytes m (addr x) (bytes x)) m) = true := by
  induction l generalizing m with
  | nil => exact h
  | cons x l ih => exact ih _ (writeBytes_wf _ _ h)

theorem borrowWriteBack_memWf (s : State) (p : Nat → Bool) (h : s.memWf = true) : (borrowWriteBack s p).memWf = true := by
  unfold borrowWriteBack
  refine State.memWf_intro ?_ ?_ rfl rfl <;> dsimp only
  · exact State.memWf_mem h
  · exact writeAll_wf _ _ _ _ (State.memWf_lender h)

@[simp] theorem dropBorrowed_memWf (s : State) (p : Nat → Bool) : (dropBorrowed s p).memWf = s.memWf := rfl

theorem evictLine_memWf (s : State) (e : Nat × Nat) (h : s.memWf = true) : (evictLine s e).memWf = true :=
  State.memWf_congr rfl rfl (borrowWriteBack_memWf s (fun k => paTier (32 * k) == 2 && k / 16 == e.2) h)

theorem sliceRoom_memWf (s : State) (sl set : Nat) (h : s.memWf = true) : (sliceRoom s sl set).memWf = true := by
  unfold sliceRoom
  dsimp only
  split
  · exact h
  · exact evictLine_memWf _ _ h

theorem touchLine_memWf (s : State) (pa : Nat) (h : s.memWf = true) : (touchLine s pa).memWf = true := by
  unfold touchLine
  split
  · exact h
  · exact State.memWf_congr rfl rfl (sliceRoom_memWf s (s.sliceOf pa) (s.sliceSet pa) h)

@[simp] theorem noteReplaced_memWf (s : State) (who : Nat) (l : List Nat) :
    (noteReplaced s who l).memWf = s.memWf := rfl

@[simp] theorem noteRelease_memWf (s : State) (who : Nat) : (noteRelease s who).memWf = s.memWf := rfl

@[simp] theorem dropRemote_memWf (s : State) (ks : List Nat) : (dropRemote s ks).memWf = s.memWf := rfl

theorem putBytes_memWf (s : State) (pa : Nat) (bs : List Byte) (h : s.memWf = true) : (putBytes s pa bs).memWf = true := by
  unfold putBytes
  split
  · exact State.memWf_foldl _ (fun s k hs => (putBorrow_memWf _ _ _ _).trans hs) _ _ h
  · exact State.memWf_intro (writeBytes_wf _ _ (State.memWf_mem h)) (State.memWf_lender h) rfl rfl

theorem memWrite_memWf (s : State) (pa : Nat) (bs : List Byte) (who : Nat) (h : s.memWf = true) :
    (memWrite s pa bs who).memWf = true := by
  have h' := putBytes_memWf { noteReplaced s who ((List.range bs.length).map (pa + ·)) with
    poison := (noteReplaced s who ((List.range bs.length).map (pa + ·))).poison.filter (fun k =>
      !((sectorsOf pa bs.length).filter (fun k => pa ≤ k * 32 && k * 32 + 32 ≤ pa + bs.length)).contains k) } pa bs
    h
  unfold memWrite
  dsimp only
  split
  · exact h'
  · exact h'

theorem memWriteMasked_memWf (s : State) (pa : Nat) (l : List (Bool × Byte)) (h : s.memWf = true) :
    (memWriteMasked s pa l).memWf = true := by
  induction l generalizing s pa with
  | nil => exact h
  | cons x r ih =>
    obtain ⟨on, b⟩ := x
    refine ih _ _ ?_
    split
    · exact State.memWf_intro (SMap.wf_set _ _ (State.memWf_mem h)) (State.memWf_lender h) rfl rfl
    · exact h

theorem memWriteSector_memWf (s : State) (k : Nat) (m : BitVec 32) (x : Sector) (h : s.memWf = true) :
    (memWriteSector s k m x).memWf = true := by
  unfold memWriteSector
  split
  · exact (putBorrow_memWf _ _ _ _).trans h
  · exact memWriteMasked_memWf _ _ _ h

/-! ## L1 -/

theorem writeBackSector_memWf (s : State) (c : Nat) (x : L1Sector) (h : s.memWf = true) :
    (writeBackSector s c x).memWf = true := by
  unfold writeBackSector
  split
  · exact h
  · rw [State.memWf_modCore]
    exact State.memWf_congr (s := memWriteSector (touchLine s (32 * x.sector)) x.sector x.dirty x.data) rfl rfl
      (memWriteSector_memWf _ _ _ _ (touchLine_memWf _ _ h))

theorem writeBackVictims_memWf (s : State) (c : Nat) (p : L1Sector → Bool) (h : s.memWf = true) :
    (writeBackVictims s c p).memWf = true :=
  State.memWf_foldl _ (fun s r hs => State.memWf_foldl _ (fun s x hs => writeBackSector_memWf s r.core x hs) _ s hs) _ _ h

theorem writeBackIf_memWf (s : State) (c : Nat) (p : L1Sector → Bool) (h : s.memWf = true) :
    (writeBackIf s c p).memWf = true :=
  State.memWf_foldl _ (fun s x hs => writeBackSector_memWf s c x hs) _ _ (writeBackVictims_memWf _ _ _ h)

theorem applyDelta_memWf (s : State) (d : Delta) (h : s.memWf = true) : (applyDelta s d).memWf = true := by
  unfold applyDelta
  dsimp only
  split
  · exact h
  · exact memWrite_memWf _ _ _ _ h

theorem obtainDirty_memWf (s : State) (lo hi : Nat) (h : s.memWf = true) : (obtainDirty s lo hi).memWf = true := by
  refine State.memWf_foldl _ (fun s r hs => ?_) _ _ h
  split
  · exact writeBackIf_memWf _ _ _ hs
  · exact hs

theorem obtainDeltas_memWf (s : State) (lo hi : Nat) (h : s.memWf = true) : (obtainDeltas s lo hi).memWf = true := by
  have merge : ∀ (ds : List Delta) (c : Nat) (g : CoreRec → CoreRec) (s : State), s.memWf = true →
      ((ds.foldl applyDelta s).modCore c g).memWf = true := by
    intro ds c g s hs
    rw [State.memWf_modCore]
    exact State.memWf_foldl _ (fun s d hs => applyDelta_memWf s d hs) _ _ hs
  unfold obtainDeltas
  dsimp only
  split
  · exact h
  · exact merge _ _ _ s h
  · exact State.memWf_foldl _ (fun s r hs => merge _ _ _ s hs) _ _ h

theorem gather_memWf (s : State) (pa n g : Nat) (h : s.memWf = true) : (gather s pa n g).memWf = true :=
  obtainDeltas_memWf _ _ _ (obtainDirty_memWf _ _ _ h)

theorem obtain_memWf (s : State) (pa n g : Nat) (h : s.memWf = true) : (obtain s pa n g).memWf = true := by
  have h' := gather_memWf _ pa n g (touchLine_memWf s pa h)
  unfold obtain
  dsimp only
  split
  · exact State.memWf_foldl _ (fun s k hs => (putBorrow_memWf _ _ _ _).trans hs) _ _ h'
  · exact h'

theorem mergeUpdates_memWf (s : State) (c : Nat) (p : Delta → Bool) (h : s.memWf = true) :
    (mergeUpdates s c p).memWf = true :=
  State.memWf_foldl _ (fun s _ hs => obtain_memWf s _ _ _ hs) _ _ h

theorem homeRead_memWf (s : State) (pa n g : Nat) (h : s.memWf = true) : (homeRead s pa n g).1.memWf = true :=
  obtain_memWf _ _ _ _ h

@[simp] theorem dropClean_memWf (s : State) (c : Nat) (p : L1Sector → Bool) : (dropClean s c p).memWf = s.memWf :=
  State.memWf_modCore _ _ _

theorem homeWrite_memWf (s : State) (c : Option Nat) (pa : Nat) (bs : List Byte) (g who : Nat) (h : s.memWf = true) :
    (homeWrite s c pa bs g who).memWf = true := by
  have h' := memWrite_memWf _ pa bs who (obtain_memWf s pa bs.length g h)
  cases c with
  | none => exact h'
  | some c => exact (dropClean_memWf _ _ _).trans h'

theorem obtainUncached_memWf (s : State) (pa n g : Nat) (h : s.memWf = true) : (obtainUncached s pa n g).memWf = true := by
  have h' := gather_memWf s pa n g h
  unfold obtainUncached
  dsimp only
  split
  · exact (dropBorrowed_memWf _ _).trans (borrowWriteBack_memWf _ _ h')
  · exact h'

theorem uncachedRead_memWf (s : State) (pa n g : Nat) (h : s.memWf = true) :
    (uncachedRead s pa n g).1.memWf = true :=
  obtainUncached_memWf _ _ _ _ h

theorem uncachedWrite_memWf (s : State) (c : Option Nat) (pa : Nat) (bs : List Byte) (g who : Nat)
    (h : s.memWf = true) : (uncachedWrite s c pa bs g who).memWf = true := by
  have h' := memWrite_memWf _ pa bs who (obtainUncached_memWf s pa bs.length g h)
  have h2 : ∀ p : Nat → Bool, (if paTier pa = 2 then dropBorrowed (borrowWriteBack (memWrite (obtainUncached s pa bs.length g)
      pa bs who) p) p else memWrite (obtainUncached s pa bs.length g) pa bs who).memWf = true := by
    intro p
    split
    · exact (dropBorrowed_memWf _ _).trans (borrowWriteBack_memWf _ _ h')
    · exact h'
  cases c with
  | none => exact h2 _
  | some c => exact (dropClean_memWf _ _ _).trans (h2 _)

/-! ## The accesses of an agent past L1 -/

theorem t3Write_memWf (s : State) (kernel : Bool) (off : Nat) (bs : List Byte) (h : s.memWf = true) :
    (t3Write s kernel off bs).memWf = true := by
  unfold t3Write
  repeat' split
  all_goals exact h

theorem agentT3Write_memWf (s : State) (ctx off : Nat) (bs : List Byte) (h : s.memWf = true) :
    (agentT3Write s ctx off bs).memWf = true := by
  unfold agentT3Write
  split
  · exact h
  · exact t3Write_memWf _ _ _ _ h

theorem remoteRefused_memWf (s : State) (ctx pa kind : Nat) (h : s.memWf = true) :
    (remoteRefused s ctx pa kind).2.memWf = true := by
  unfold remoteRefused
  split <;> exact h

theorem agentRead_memWf (s : State) (ctx : Nat) (x : Xlated) (n : Nat) (h : s.memWf = true) :
    (agentRead s ctx x n).1.memWf = true := by
  have h' := remoteRefused_memWf s ctx x.pa 0 h
  unfold agentRead
  dsimp only
  split
  · exact h
  · split
    · exact h
    · split
      · exact h'
      · split
        · exact uncachedRead_memWf _ _ _ _ h'
        · exact homeRead_memWf _ _ _ _ h'

theorem agentWrite_memWf (s : State) (ctx : Nat) (c : Option Nat) (x : Xlated) (bs : List Byte)
    (kind who : Nat) (h : s.memWf = true) : (agentWrite s ctx c x bs kind who).1.memWf = true := by
  have h' := remoteRefused_memWf s ctx x.pa kind h
  unfold agentWrite
  dsimp only
  split
  · exact agentT3Write_memWf _ _ _ _ h
  · split
    · exact h
    · split
      · exact h'
      · dsimp only
        split
        · exact uncachedWrite_memWf _ _ _ _ _ _ h'
        · exact homeWrite_memWf _ _ _ _ _ _ h'

theorem physWrite_memWf (s : State) (pa v n : Nat) (h : s.memWf = true) : (physWrite s pa v n).memWf = true :=
  homeWrite_memWf _ _ _ _ _ _ h

theorem physRead_memWf (s : State) (pa n : Nat) (h : s.memWf = true) : (physRead s pa n).1.memWf = true :=
  homeRead_memWf _ _ _ _ h

theorem flushRegion_memWf (s : State) (c region : Nat) (h : s.memWf = true) : (flushRegion s c region).memWf = true := by
  unfold flushRegion
  rw [State.memWf_modCore]
  exact writeBackIf_memWf _ _ _ (mergeUpdates_memWf _ _ _ h)

theorem evictRegion_memWf (s : State) (c region : Nat) (h : s.memWf = true) : (evictRegion s c region).memWf = true := by
  have h' := mergeUpdates_memWf s c (fun d => d.addr / 512 == region) h
  unfold evictRegion
  dsimp only
  split
  · rw [State.memWf_modCore, State.memWf_modCore]
    exact writeBackVictims_memWf _ _ _ h'
  · rw [State.memWf_modCore]
    refine writeBackIf_memWf _ _ _ ?_
    split <;> exact h'

theorem makeRoom_memWf (s : State) (c region : Nat) (h : s.memWf = true) : (makeRoom s c region).memWf = true := by
  unfold makeRoom
  dsimp only
  split
  · exact h
  · exact evictRegion_memWf _ _ _ h

theorem foreignInsert_memWf (s : State) (c k : Nat) (x : Sector) (po : Bool) (h : s.memWf = true) :
    (foreignInsert s c k x po).memWf = true := by
  unfold foreignInsert
  dsimp only
  split
  · exact h
  · refine State.memWf_congr (s := if _ then s else sliceRoom s _ _) rfl rfl ?_
    split
    · exact h
    · exact sliceRoom_memWf _ _ _ h

theorem fetchSector_memWf (s : State) (c k g : Nat) (h : s.memWf = true) : (fetchSector s c k g).1.memWf = true := by
  unfold fetchSector
  split
  · split
    · exact h
    · split
      · exact h
      · exact foreignInsert_memWf _ _ _ _ _ h
  · exact homeRead_memWf _ _ _ _ h

theorem l1Fill_memWf (s : State) (c k g : Nat) (h : s.memWf = true) : (l1Fill s c k g).memWf = true := by
  have h' := mergeUpdates_memWf s c (fun d => d.addr / 512 == k / 16) h
  unfold l1Fill
  dsimp only
  split
  · split
    · exact h'
    · rw [State.memWf_modCore]
      exact fetchSector_memWf _ _ _ _ h'
  · rw [State.memWf_modCore]
    exact fetchSector_memWf _ _ _ _ (makeRoom_memWf _ _ _ h')

theorem l1Load_memWf (s : State) (c pa n g : Nat) (h : s.memWf = true) : (l1Load s c pa n g).1.memWf = true := by
  unfold l1Load
  have : ∀ (l : List Nat) (a : State × Bool), a.1.memWf = true →
      (l.foldl (fun (acc : State × Bool) (k : Nat) =>
        (l1Fill acc.1 c k g, acc.2 || ((l1Fill acc.1 c k g).l1Sector c k).any (·.poison))) a).1.memWf = true := by
    intro l
    induction l with
    | nil => intro a ha; exact ha
    | cons k l ih => intro a ha; exact ih _ (l1Fill_memWf _ _ _ _ ha)
  exact this _ _ h

theorem l1StoreIn_memWf (s : State) (c pa g : Nat) (bs : List Byte) (h : s.memWf = true) :
    (l1StoreIn s c pa g bs).memWf = true := by
  have h' := mergeUpdates_memWf s c (fun d => d.addr / 512 == pa / 32 / 16) h
  unfold l1StoreIn
  dsimp only
  rw [State.memWf_modCore]
  split
  · exact makeRoom_memWf _ _ _ h'
  · exact h'

theorem l1Store_memWf (s : State) (c pa g : Nat) (bs : List Byte) (who : Nat) (h : s.memWf = true) :
    (l1Store s c pa g bs who).memWf = true := by
  unfold l1Store
  exact State.memWf_foldl _ (fun s k hs => l1StoreIn_memWf _ _ _ _ _ hs) _ _ h

/-! ## Drains and invalidations -/

theorem drainCore_memWf (s : State) (c : Nat) (p : Nat → Bool) (h : s.memWf = true) :
    (drainCore s c p).memWf = true := by
  unfold drainCore
  exact mergeUpdates_memWf _ _ _ (writeBackIf_memWf _ _ _ h)

@[simp] theorem selfInvalidate_memWf (s : State) (c : Nat) (remote : Bool) (p : Nat → Bool) :
    (selfInvalidate s c remote p).memWf = s.memWf := dropClean_memWf _ _ _

@[simp] theorem dropForeign_memWf (s : State) (c : Nat) (p : Nat → Bool) : (dropForeign s c p).memWf = s.memWf := rfl

theorem returnBorrowed_memWf (s : State) (p : Nat → Bool) (h : s.memWf = true) : (returnBorrowed s p).memWf = true := by
  unfold returnBorrowed
  refine borrowWriteBack_memWf _ _ (State.memWf_foldl _ (fun s r hs => ?_) _ _ h)
  exact drainCore_memWf s r.core p hs

theorem freshBorrow_memWf (s : State) (i : Nat) (h : s.memWf = true) : (freshBorrow s i).memWf = true := by
  have hm := State.memWf_mem h
  have hl := State.memWf_lender h
  unfold freshBorrow
  dsimp only
  generalize (beLender (s.borrow i) * 8192 + beExtent (s.borrow i)) * 2 ^ 28 = lo
  exact State.memWf_intro hm (SMap.wf_keep (fun a => decide (a < lo) || decide (lo + 2 ^ 28 ≤ a)) hl) rfl rfl

theorem drainStack_memWf (s : State) (stack : Nat) (h : s.memWf = true) : (drainStack s stack).memWf = true := by
  unfold drainStack
  refine State.memWf_foldl _ (fun s r hs => ?_) _ _ h
  exact drainCore_memWf s r.core _ hs

/-! ## What moves or replaces whole extents -/

theorem replaceExtent_memWf (s : State) (n : Nat) (f : Nat → Byte) (h : s.memWf = true) :
    (replaceExtent s n f).memWf = true := by
  have hm := State.memWf_mem h
  refine State.memWf_intro ?_ (State.memWf_lender h) rfl rfl
  have key : ∀ c ∈ SMap.ofFun (2 ^ 28) f, c.1 < 2 ^ 28 := by
    intro c hc
    simp only [SMap.ofFun, List.mem_filterMap, Option.ite_none_left_eq_some, Option.some.injEq] at hc
    obtain ⟨a, ha, -, rfl⟩ := hc
    exact List.mem_range.1 ha
  refine SMap.wf_append (SMap.wf_append (SMap.wf_keep _ hm)
    (SMap.wf_map (fun a => s.extentBase n + a) (SMap.wf_ofFun _ f) (fun c _ d _ hcd => by omega)) ?_)
    (SMap.wf_keep _ hm) ?_
  · intro c hc d hd
    simp only [SMap.keep, List.mem_filter, decide_eq_true_eq] at hc
    simp only [List.mem_map] at hd
    obtain ⟨e, -, rfl⟩ := hd
    have := hc.2
    show c.1 < s.extentBase n + e.1
    omega
  · intro c hc d hd
    simp only [SMap.keep, List.mem_filter, decide_eq_true_eq] at hd
    rcases List.mem_append.1 hc with hc | hc
    · simp only [SMap.keep, List.mem_filter, decide_eq_true_eq] at hc
      have := hc.2
      have := hd.2
      omega
    · simp only [List.mem_map] at hc
      obtain ⟨e, he, rfl⟩ := hc
      have := key e he
      have := hd.2
      show s.extentBase n + e.1 < d.1
      omega

theorem eraseKey_memWf (s : State) (n : Nat) (h : s.memWf = true) : (eraseKey s n).memWf = true :=
  State.memWf_congr rfl rfl (replaceExtent_memWf s n _ h)

theorem freeExtent_memWf (s : State) (n : Nat) (keep : Bool) (h : s.memWf = true) : (freeExtent s n keep).memWf = true := by
  unfold freeExtent
  dsimp only
  split
  · exact h
  · exact eraseKey_memWf _ _ h

/-- Addresses of one package keep their order under another package number. -/
theorem rekey_wf {m : SMap 8} (old new : Nat) (p : Nat → Bool) (h : SMap.wf m = true)
    (hp : ∀ a, p a = true → paPkg a = old) :
    SMap.wf ((SMap.keep m p).map (fun x => (rekey old new x.1, x.2))) = true := by
  refine SMap.wf_map (rekey old new) (SMap.wf_keep p h) (fun c hc d _ hcd => ?_)
  simp only [SMap.keep, List.mem_filter] at hc
  have h1 := hp _ hc.2
  have h2 : old * 2 ^ 54 ≤ c.1 := by
    rw [← h1, paPkg]
    have := Nat.mod_le (c.1 / 2 ^ 54) 1024
    omega
  unfold rekey
  omega

theorem packageReset_memWf (s : State) (h : s.memWf = true) : (packageReset s).memWf = true := by
  unfold packageReset
  refine State.memWf_intro ?_ ?_ rfl rfl <;> dsimp only
  swap
  · exact SMap.wf_nil
  have h' : (s.cores.foldl (fun s r => drainCore s r.core (fun _ => true)) s).memWf = true := by
    refine State.memWf_foldl _ (fun s r hs => ?_) _ _ h
    exact drainCore_memWf s r.core _ hs
  refine rekey_wf _ _ _ (State.memWf_mem h') ?_
  intro a ha
  simp only [Bool.and_eq_true, beq_iff_eq] at ha
  exact ha.1.1

theorem withFetchWord_memWf (s : State) (nbits w : Nat) (h : s.memWf = true) : (s.withFetchWord nbits w).memWf = true := by
  unfold State.withFetchWord
  refine State.memWf_intro ?_ ?_ rfl rfl <;> dsimp only
  · exact writeLe_wf _ _ _ (writeLe_wf _ _ _ (State.memWf_mem h))
  · exact State.memWf_lender h

end Sys2Proof.Machine
end

