-- ==== Sys2Proof/Laws/PerInstr.lean ====
section
/-! SUPPORT. A law of every instruction as syntax: its word holds zero in the reserved bits of the control field (R332);
an event has no word, and the answer for it is zero. -/

namespace Sys2Proof.Laws.Enc

/-- CTL[4:0] of the word, bits 81 to 77, are zero. -/
def Statement (i : Instr) : Prop := (encode i).extractLsb' 77 5 = 0

/-- A field of a concatenation that lies in its upper part. -/
theorem extract_above {m n : Nat} (a : BitVec m) (b : BitVec n) (s t k : Nat) (h : t = n + s := by rfl) :
    (a ++ b).extractLsb' t k = a.extractLsb' s k := by
  subst h
  ext i hi
  simp [BitVec.getLsbD_append, Nat.add_assoc]

/-- A field of a concatenation that lies in its lower part. -/
theorem extract_below {m n : Nat} (a : BitVec m) (b : BitVec n) (k : Nat) (h : k ≤ n := by decide) :
    (a ++ b).extractLsb' 0 k = b.extractLsb' 0 k := by
  ext i hi
  simp [BitVec.getLsbD_append, show i < n by omega]

/-- The control field under a form code. -/
theorem ctl_reserved (x : BitVec 2) (c : Ctl) : (x ++ Encode.ctl c).extractLsb' 0 5 = 0 :=
  (extract_below _ _ 5).trans ((extract_below _ _ 5).trans rfl)

/-- A step without a word. -/
theorem of_no_word {i : Instr} (h : encode i = 0) : Statement i := by simp [Statement, h]

/-- A word of form F. -/
theorem fForm_reserved (opc : BitVec 12) (f : FForm) : (Encode.fForm opc f).extractLsb' 77 5 = 0 := by
  unfold Encode.fForm
  refine (extract_above _ _ 65 77 5).trans ?_
  refine (extract_above _ _ 64 65 5).trans ?_
  refine (extract_above _ _ 62 64 5).trans ?_
  refine (extract_above _ _ 58 62 5).trans ?_
  refine (extract_above _ _ 54 58 5).trans ?_
  refine (extract_above _ _ 49 54 5).trans ?_
  refine (extract_above _ _ 40 49 5).trans ?_
  refine (extract_above _ _ 31 40 5).trans ?_
  refine (extract_above _ _ 22 31 5).trans ?_
  refine (extract_above _ _ 21 22 5).trans ?_
  refine (extract_above _ _ 12 21 5).trans ?_
  refine (extract_above _ _ 0 12 5).trans ?_
  exact ctl_reserved _ _

/-- A word of form I. -/
theorem iForm_reserved (opc : BitVec 12) (f : IForm) : (Encode.iForm opc f).extractLsb' 77 5 = 0 := by
  unfold Encode.iForm
  refine (extract_above _ _ 45 77 5).trans ?_
  refine (extract_above _ _ 36 45 5).trans ?_
  refine (extract_above _ _ 31 36 5).trans ?_
  refine (extract_above _ _ 22 31 5).trans ?_
  refine (extract_above _ _ 21 22 5).trans ?_
  refine (extract_above _ _ 12 21 5).trans ?_
  refine (extract_above _ _ 0 12 5).trans ?_
  exact ctl_reserved _ _

theorem abs (w : FForm) : Statement (.abs w) := fForm_reserved _ _
theorem add (w : FForm) : Statement (.add w) := fForm_reserved _ _
theorem addImm (w : IForm) : Statement (.addImm w) := iForm_reserved _ _
theorem and (w : FForm) : Statement (.and w) := fForm_reserved _ _
theorem andImm (w : IForm) : Statement (.andImm w) := iForm_reserved _ _
theorem bfi (w : FForm) : Statement (.bfi w) := fForm_reserved _ _
theorem bfx (w : FForm) : Statement (.bfx w) := fForm_reserved _ _
theorem brev (w : FForm) : Statement (.brev w) := fForm_reserved _ _
theorem clz (w : FForm) : Statement (.clz w) := fForm_reserved _ _
theorem cmp (w : FForm) : Statement (.cmp w) := fForm_reserved _ _
theorem lea (w : FForm) : Statement (.lea w) := fForm_reserved _ _
theorem mad (w : FForm) : Statement (.mad w) := fForm_reserved _ _
theorem max (w : FForm) : Statement (.max w) := fForm_reserved _ _
theorem maxImm (w : IForm) : Statement (.maxImm w) := iForm_reserved _ _
theorem min (w : FForm) : Statement (.min w) := fForm_reserved _ _
theorem minImm (w : IForm) : Statement (.minImm w) := iForm_reserved _ _
theorem mul (w : FForm) : Statement (.mul w) := fForm_reserved _ _
theorem mulImm (w : IForm) : Statement (.mulImm w) := iForm_reserved _ _
theorem not (w : FForm) : Statement (.not w) := fForm_reserved _ _
theorem or (w : FForm) : Statement (.or w) := fForm_reserved _ _
theorem orImm (w : IForm) : Statement (.orImm w) := iForm_reserved _ _
theorem popc (w : FForm) : Statement (.popc w) := fForm_reserved _ _
theorem sel (w : FForm) : Statement (.sel w) := fForm_reserved _ _
theorem sha (w : FForm) : Statement (.sha w) := fForm_reserved _ _
theorem shaImm (w : IForm) : Statement (.shaImm w) := iForm_reserved _ _
theorem shl (w : FForm) : Statement (.shl w) := fForm_reserved _ _
theorem shlImm (w : IForm) : Statement (.shlImm w) := iForm_reserved _ _
theorem shr (w : FForm) : Statement (.shr w) := fForm_reserved _ _
theorem shrImm (w : IForm) : Statement (.shrImm w) := iForm_reserved _ _
theorem sub (w : FForm) : Statement (.sub w) := fForm_reserved _ _
theorem subImm (w : IForm) : Statement (.subImm w) := iForm_reserved _ _
theorem xor (w : FForm) : Statement (.xor w) := fForm_reserved _ _
theorem xorImm (w : IForm) : Statement (.xorImm w) := iForm_reserved _ _
theorem elect (w : FForm) : Statement (.elect w) := fForm_reserved _ _
theorem mov (w : FForm) : Statement (.mov w) := fForm_reserved _ _
theorem movi (w : IForm) : Statement (.movi w) := iForm_reserved _ _
theorem movx (w : FForm) : Statement (.movx w) := fForm_reserved _ _
theorem movxw (w : FForm) : Statement (.movxw w) := fForm_reserved _ _
theorem nop (w : FForm) : Statement (.nop w) := fForm_reserved _ _
theorem plop (w : FForm) : Statement (.plop w) := fForm_reserved _ _
theorem srd (w : FForm) : Statement (.srd w) := fForm_reserved _ _
theorem swr (w : FForm) : Statement (.swr w) := fForm_reserved _ _
theorem fadd (w : FForm) : Statement (.fadd w) := fForm_reserved _ _
theorem faddImm (w : IForm) : Statement (.faddImm w) := iForm_reserved _ _
theorem fclass (w : FForm) : Statement (.fclass w) := fForm_reserved _ _
theorem fcmp (w : FForm) : Statement (.fcmp w) := fForm_reserved _ _
theorem fcvt (w : FForm) : Statement (.fcvt w) := fForm_reserved _ _
theorem fdiv (w : FForm) : Statement (.fdiv w) := fForm_reserved _ _
theorem ffma (w : FForm) : Statement (.ffma w) := fForm_reserved _ _
theorem fmax (w : FForm) : Statement (.fmax w) := fForm_reserved _ _
theorem fmaxImm (w : IForm) : Statement (.fmaxImm w) := iForm_reserved _ _
theorem fmin (w : FForm) : Statement (.fmin w) := fForm_reserved _ _
theorem fminImm (w : IForm) : Statement (.fminImm w) := iForm_reserved _ _
theorem fmul (w : FForm) : Statement (.fmul w) := fForm_reserved _ _
theorem fmulImm (w : IForm) : Statement (.fmulImm w) := iForm_reserved _ _
theorem frnd (w : FForm) : Statement (.frnd w) := fForm_reserved _ _
theorem cos (w : FForm) : Statement (.cos w) := fForm_reserved _ _
theorem ex2 (w : FForm) : Statement (.ex2 w) := fForm_reserved _ _
theorem lg2 (w : FForm) : Statement (.lg2 w) := fForm_reserved _ _
theorem rcp (w : FForm) : Statement (.rcp w) := fForm_reserved _ _
theorem rsq (w : FForm) : Statement (.rsq w) := fForm_reserved _ _
theorem sin (w : FForm) : Statement (.sin w) := fForm_reserved _ _
theorem sqrt (w : FForm) : Statement (.sqrt w) := fForm_reserved _ _
theorem tanh (w : FForm) : Statement (.tanh w) := fForm_reserved _ _
theorem matchLanes (w : FForm) : Statement (.matchLanes w) := fForm_reserved _ _
theorem proj (w : FForm) : Statement (.proj w) := fForm_reserved _ _
theorem projl (w : FForm) : Statement (.projl w) := fForm_reserved _ _
theorem pushl (w : FForm) : Statement (.pushl w) := fForm_reserved _ _
theorem redl (w : FForm) : Statement (.redl w) := fForm_reserved _ _
theorem shfl (w : FForm) : Statement (.shfl w) := fForm_reserved _ _
theorem vote (w : FForm) : Statement (.vote w) := fForm_reserved _ _
theorem ld (w : IForm) : Statement (.ld w) := iForm_reserved _ _
theorem ldw (w : IForm) : Statement (.ldw w) := iForm_reserved _ _
theorem ldx (w : IForm) : Statement (.ldx w) := iForm_reserved _ _
theorem st (w : IForm) : Statement (.st w) := iForm_reserved _ _
theorem stx (w : IForm) : Statement (.stx w) := iForm_reserved _ _
theorem tld (w : IForm) : Statement (.tld w) := iForm_reserved _ _
theorem atom (w : FForm) : Statement (.atom w) := fForm_reserved _ _
theorem atomx (w : FForm) : Statement (.atomx w) := fForm_reserved _ _
theorem barArv (w : FForm) : Statement (.barArv w) := fForm_reserved _ _
theorem barWt (w : FForm) : Statement (.barWt w) := fForm_reserved _ _
theorem barSync (w : FForm) : Statement (.barSync w) := fForm_reserved _ _
theorem cas (w : FForm) : Statement (.cas w) := fForm_reserved _ _
theorem fence (w : FForm) : Statement (.fence w) := fForm_reserved _ _
theorem red (w : FForm) : Statement (.red w) := fForm_reserved _ _
theorem setfSt (w : FForm) : Statement (.setfSt w) := fForm_reserved _ _
theorem setfAdd (w : FForm) : Statement (.setfAdd w) := fForm_reserved _ _
theorem waitf (w : FForm) : Statement (.waitf w) := fForm_reserved _ _
theorem waitw (w : FForm) : Statement (.waitw w) := fForm_reserved _ _
theorem txb (w : IForm) : Statement (.txb w) := iForm_reserved _ _
theorem txe (w : FForm) : Statement (.txe w) := fForm_reserved _ _
theorem txa (w : IForm) : Statement (.txa w) := iForm_reserved _ _
theorem txq (w : FForm) : Statement (.txq w) := fForm_reserved _ _
theorem coll (w : FForm) : Statement (.coll w) := fForm_reserved _ _
theorem emit (w : FForm) : Statement (.emit w) := fForm_reserved _ _
theorem pfetch (w : FForm) : Statement (.pfetch w) := fForm_reserved _ _
theorem tcpy (w : FForm) : Statement (.tcpy w) := fForm_reserved _ _
theorem tcpyResume (w : FForm) : Statement (.tcpyResume w) := fForm_reserved _ _
theorem tseal (w : FForm) : Statement (.tseal w) := fForm_reserved _ _
theorem twait (w : FForm) : Statement (.twait w) := fForm_reserved _ _
theorem accrd (w : FForm) : Statement (.accrd w) := fForm_reserved _ _
theorem accwr (w : FForm) : Statement (.accwr w) := fForm_reserved _ _
theorem bndset (w : FForm) : Statement (.bndset w) := fForm_reserved _ _
theorem bndsetKh (w : FForm) : Statement (.bndsetKh w) := fForm_reserved _ _
theorem bndsetGet (w : FForm) : Statement (.bndsetGet w) := fForm_reserved _ _
theorem mbarArv (w : FForm) : Statement (.mbarArv w) := fForm_reserved _ _
theorem mbarWt (w : FForm) : Statement (.mbarWt w) := fForm_reserved _ _
theorem mbarSync (w : FForm) : Statement (.mbarSync w) := fForm_reserved _ _
theorem mend (w : FForm) : Statement (.mend w) := fForm_reserved _ _
theorem mjmp (w : IForm) : Statement (.mjmp w) := iForm_reserved _ _
theorem mmad (w : IForm) : Statement (.mmad w) := iForm_reserved _ _
theorem mstart (w : FForm) : Statement (.mstart w) := fForm_reserved _ _
theorem mstartResume (w : FForm) : Statement (.mstartResume w) := fForm_reserved _ _
theorem mzero (w : FForm) : Statement (.mzero w) := fForm_reserved _ _
theorem mzeroAuto (w : FForm) : Statement (.mzeroAuto w) := fForm_reserved _ _
theorem mzeroRns (w : FForm) : Statement (.mzeroRns w) := fForm_reserved _ _
theorem rnscfgSet (w : FForm) : Statement (.rnscfgSet w) := fForm_reserved _ _
theorem rnscfgGet (w : FForm) : Statement (.rnscfgGet w) := fForm_reserved _ _
theorem rnschk (w : FForm) : Statement (.rnschk w) := fForm_reserved _ _
theorem rnsf (w : FForm) : Statement (.rnsf w) := fForm_reserved _ _
theorem rnsr (w : FForm) : Statement (.rnsr w) := fForm_reserved _ _
theorem brx (w : FForm) : Statement (.brx w) := fForm_reserved _ _
theorem callx (w : FForm) : Statement (.callx w) := fForm_reserved _ _
theorem exit (w : FForm) : Statement (.exit w) := fForm_reserved _ _
theorem lbrk (w : FForm) : Statement (.lbrk w) := fForm_reserved _ _
theorem prio (w : FForm) : Statement (.prio w) := fForm_reserved _ _
theorem ret (w : FForm) : Statement (.ret w) := fForm_reserved _ _
theorem svc (w : IForm) : Statement (.svc w) := iForm_reserved _ _
theorem trap (w : IForm) : Statement (.trap w) := iForm_reserved _ _
theorem tret (w : FForm) : Statement (.tret w) := fForm_reserved _ _
theorem yield (w : FForm) : Statement (.yield w) := fForm_reserved _ _
theorem pair (ctl : Ctl) (x y : PHalf) : Statement (.pair ctl x y) := by
  unfold Statement encode
  refine (extract_above _ _ 76 77 5).trans ?_
  refine (extract_above _ _ 38 76 5).trans ?_
  refine (extract_above _ _ 0 38 5).trans ?_
  exact ctl_reserved _ _
theorem bra (ctl : Ctl) (g : Guard) (off : BitVec 24) : Statement (.bra ctl g off) := by
  unfold Statement encode
  refine (extract_above _ _ 32 77 5).trans ?_
  refine (extract_above _ _ 8 32 5).trans ?_
  refine (extract_above _ _ 3 8 5).trans ?_
  refine (extract_above _ _ 0 3 5).trans ?_
  exact ctl_reserved _ _
theorem brm (ctl : Ctl) (pairs : List (Guard × BitVec 13)) : Statement (.brm ctl pairs) := by
  unfold Statement encode
  refine (extract_above _ _ 75 77 5).trans ?_
  refine (extract_above _ _ 57 75 5).trans ?_
  refine (extract_above _ _ 39 57 5).trans ?_
  refine (extract_above _ _ 21 39 5).trans ?_
  refine (extract_above _ _ 3 21 5).trans ?_
  refine (extract_above _ _ 0 3 5).trans ?_
  exact ctl_reserved _ _
theorem call (ctl : Ctl) (g : Guard) (off : BitVec 24) : Statement (.call ctl g off) := by
  unfold Statement encode
  refine (extract_above _ _ 32 77 5).trans ?_
  refine (extract_above _ _ 8 32 5).trans ?_
  refine (extract_above _ _ 3 8 5).trans ?_
  refine (extract_above _ _ 0 3 5).trans ?_
  exact ctl_reserved _ _
theorem join (w : JoinForm) : Statement (.join w) := by
  unfold Statement encode
  refine (extract_above _ _ 26 77 5).trans ?_
  refine (extract_above _ _ 17 26 5).trans ?_
  refine (extract_above _ _ 8 17 5).trans ?_
  refine (extract_above _ _ 4 8 5).trans ?_
  refine (extract_above _ _ 3 4 5).trans ?_
  refine (extract_above _ _ 0 3 5).trans ?_
  exact ctl_reserved _ _
theorem loop (w : LoopForm) : Statement (.loop w) := by
  unfold Statement encode
  refine (extract_above _ _ 43 77 5).trans ?_
  refine (extract_above _ _ 40 43 5).trans ?_
  refine (extract_above _ _ 36 40 5).trans ?_
  refine (extract_above _ _ 30 36 5).trans ?_
  refine (extract_above _ _ 14 30 5).trans ?_
  refine (extract_above _ _ 5 14 5).trans ?_
  refine (extract_above _ _ 3 5 5).trans ?_
  refine (extract_above _ _ 0 3 5).trans ?_
  exact ctl_reserved _ _
theorem joinRelease (core slot : Nat) : Statement (.joinRelease core slot) := of_no_word rfl
theorem joinTimeout (core slot : Nat) : Statement (.joinTimeout core slot) := of_no_word rfl
theorem crossLaneExecute (core slot : Nat) : Statement (.crossLaneExecute core slot) := of_no_word rfl
theorem stallWatchdog (core slot : Nat) : Statement (.stallWatchdog core slot) := of_no_word rfl
theorem copyCommandEnd (id : Nat) : Statement (.copyCommandEnd id) := of_no_word rfl
theorem tierTimeout (id : Nat) : Statement (.tierTimeout id) := of_no_word rfl
theorem collStart (id : Nat) (peers : List CollPeer) : Statement (.collStart id peers) := of_no_word rfl
theorem collTimeout (id : Nat) : Statement (.collTimeout id) := of_no_word rfl
theorem txCommit (core slot : Nat) : Statement (.txCommit core slot) := of_no_word rfl
theorem flagWaitSatisfied (core slot : Nat) : Statement (.flagWaitSatisfied core slot) := of_no_word rfl
theorem resultArrival (core slot tag : Nat) (congestion : BitVec 2) : Statement (.resultArrival core slot tag congestion) := of_no_word rfl
theorem agePromotion (core slot : Nat) : Statement (.agePromotion core slot) := of_no_word rfl
theorem congestionLevelExpiry (core quarter : Nat) : Statement (.congestionLevelExpiry core quarter) := of_no_word rfl
theorem urgentReadMark (core quarter : Nat) : Statement (.urgentReadMark core quarter) := of_no_word rfl
theorem fresumeRetry (cmd : DWord) : Statement (.fresumeRetry cmd) := of_no_word rfl
theorem fresumeKill (cmd : DWord) : Statement (.fresumeKill cmd) := of_no_word rfl
theorem stoppedSeqArrival (core : Nat) (barrier : Fin 32) : Statement (.stoppedSeqArrival core barrier) := of_no_word rfl
theorem boundCacheEvict (cohort : Nat) (entry : BitVec 12) : Statement (.boundCacheEvict cohort entry) := of_no_word rfl
theorem l1Eviction (core : Nat) (region : Nat) : Statement (.l1Eviction core region) := of_no_word rfl
theorem lazyReleaseDrain (slice : Nat) (core : Nat) : Statement (.lazyReleaseDrain slice core) := of_no_word rfl
theorem postedWriteAck (core slot : Nat) : Statement (.postedWriteAck core slot) := of_no_word rfl
theorem writebackEngine (slice : Nat) : Statement (.writebackEngine slice) := of_no_word rfl
theorem pageWalk (core : Nat) (va : DWord) (store : Bool) : Statement (.pageWalk core va store) := of_no_word rfl
theorem invdb (addr : DWord) : Statement (.invdb addr) := of_no_word rfl
theorem invalidationComplete : Statement .invalidationComplete := of_no_word rfl
theorem channelRetire (stack : Fin 16) (channel : Fin 32) : Statement (.channelRetire stack channel) := of_no_word rfl
theorem rqdb (queue : Fin 16) (addr : DWord) : Statement (.rqdb queue addr) := of_no_word rfl
theorem routeStart (queue : Fin 16) : Statement (.routeStart queue) := of_no_word rfl
theorem waypointEvaluate (route : Nat) (wp : Nat) : Statement (.waypointEvaluate route wp) := of_no_word rfl
theorem waypointComplete (route : Nat) (wp : Nat) : Statement (.waypointComplete route wp) := of_no_word rfl
theorem stallCounterTick : Statement .stallCounterTick := of_no_word rfl
theorem bind (addr : DWord) : Statement (.bind addr) := of_no_word rfl
theorem bindResume (addr : DWord) : Statement (.bindResume addr) := of_no_word rfl
theorem preemptdb (addr : DWord) : Statement (.preemptdb addr) := of_no_word rfl
theorem blockRetire (core : Nat) : Statement (.blockRetire core) := of_no_word rfl
theorem uncorrectableError (unit : PoisonUnit) : Statement (.uncorrectableError unit) := of_no_word rfl
theorem correctedError (kind : CounterKind) (inst : Nat) (corepos : Word) : Statement (.correctedError kind inst corepos) := of_no_word rfl
theorem leakTick (kind : CounterKind) (inst : Nat) : Statement (.leakTick kind inst) := of_no_word rfl
theorem memberLoss (pkg : BitVec 10) : Statement (.memberLoss pkg) := of_no_word rfl
theorem podid (value : Word) : Statement (.podid value) := of_no_word rfl
theorem linkTraining (port : Fin 16) (peer : BitVec 10) : Statement (.linkTraining port peer) := of_no_word rfl
theorem inboundRequest (src : BitVec 10) (key : BitVec 16) (addr : DWord) (req : ReqKind) : Statement (.inboundRequest src key addr req) := of_no_word rfl
theorem lendcmdOffer (cmd : DWord) : Statement (.lendcmdOffer cmd) := of_no_word rfl
theorem lendcmdRecall (cmd : DWord) : Statement (.lendcmdRecall cmd) := of_no_word rfl
theorem lendcmdFree (cmd : DWord) : Statement (.lendcmdFree cmd) := of_no_word rfl
theorem leaseAccept (extent : Fin 8192) (session : Session) : Statement (.leaseAccept extent session) := of_no_word rfl
theorem leaseRefusal (answer : LeaseAnswer) : Statement (.leaseRefusal answer) := of_no_word rfl
theorem offerTimeout (extent : Fin 8192) : Statement (.offerTimeout extent) := of_no_word rfl
theorem leaseRenewal (extent : Fin 8192) : Statement (.leaseRenewal extent) := of_no_word rfl
theorem leaseExpiry (extent : Fin 8192) : Statement (.leaseExpiry extent) := of_no_word rfl
theorem borrowerExpiry (entry : Fin 4096) : Statement (.borrowerExpiry entry) := of_no_word rfl
theorem recallMessage (entry : Fin 4096) : Statement (.recallMessage entry) := of_no_word rfl
theorem borrowedExtentWrite (entry : Fin 4096) (value : BitVec 128) : Statement (.borrowedExtentWrite entry value) := of_no_word rfl
theorem releaseMessage (release : ReleaseNotice) : Statement (.releaseMessage release) := of_no_word rfl
theorem releaseAck (entry : Fin 4096) : Statement (.releaseAck entry) := of_no_word rfl
theorem recallDeadline (extent : Fin 8192) : Statement (.recallDeadline extent) := of_no_word rfl
theorem backInvalidateSnoop (entry : Fin 4096) (line : Nat) : Statement (.backInvalidateSnoop entry line) := of_no_word rfl
theorem heartbeat (peer : BitVec 16) : Statement (.heartbeat peer) := of_no_word rfl
theorem heartbeatLoss (peer : BitVec 16) : Statement (.heartbeatLoss peer) := of_no_word rfl
theorem leaseAcknowledgement (entry : Fin 4096) (sent : Nat) (term : BitVec 12) (grant : Grant) (ide : Bool) : Statement (.leaseAcknowledgement entry sent term grant ide) := of_no_word rfl
theorem cxlMemRequest (extent : Fin 8192) (borrower : BitVec 16) (offset : Nat) (request : CxlRequest) : Statement (.cxlMemRequest extent borrower offset request) := of_no_word rfl
theorem fabricManagerElection (attested : List (BitVec 16)) : Statement (.fabricManagerElection attested) := of_no_word rfl
theorem bootStage (digest : BitVec 256) (signature : ImageSignature) (version : Nat) : Statement (.bootStage digest signature version) := of_no_word rfl
theorem mregExtend (reg : Fin 16) (digest : BitVec 256) : Statement (.mregExtend reg digest) := of_no_word rfl
theorem spdmRequest (requester : SpdmPath) (block : Nat) : Statement (.spdmRequest requester block) := of_no_word rfl
theorem tamperAlarm (source : AlarmSource) : Statement (.tamperAlarm source) := of_no_word rfl
theorem mgsemAcq (requests : List Requester) : Statement (.mgsemAcq requests) := of_no_word rfl
theorem mgsemRel (requester : Requester) : Statement (.mgsemRel requester) := of_no_word rfl
theorem mgsemTimeout : Statement .mgsemTimeout := of_no_word rfl
theorem resetcmd (requester : Requester) (value : Word) : Statement (.resetcmd requester value) := of_no_word rfl
theorem powerOnReset : Statement .powerOnReset := of_no_word rfl
theorem hostCoreReset (image : BootImage) : Statement (.hostCoreReset image) := of_no_word rfl
theorem clockUpdate (watts : List Nat) (junction : Nat) : Statement (.clockUpdate watts junction) := of_no_word rfl
theorem thermalTrip : Statement .thermalTrip := of_no_word rfl
theorem healthUpdate (figures : HealthFigures) : Statement (.healthUpdate figures) := of_no_word rfl
theorem registerWrite (requester : Requester) (offset : Nat) (bytes : Nat) (value : BitVec 256) : Statement (.registerWrite requester offset bytes value) := of_no_word rfl
theorem hostCoreAccess (addr : HostAddress) (req : ReqKind) : Statement (.hostCoreAccess addr req) := of_no_word rfl

end Sys2Proof.Laws.Enc
end

