-- ==== Sys2Proof/Tests/Slice0.lean ====
section
/-! SUPPORT. Tests: words written out from the encodings of the manual, terms that the field rules refuse, one step of
each kind on a small state with the result of the manual's own example, and a witness for each statement that has
hypotheses. -/

set_option Elab.async false

namespace Sys2Proof.Machine.Tests

/-! ## Small states -/

def k7 : Ctl := ⟨7, 0, false, false⟩
def k0 : Ctl := ⟨0, 0, false, false⟩
def g0 : Guard := ⟨false, 0⟩

/-- A form F word without tag, guard and control clause. -/
def F (d a b c : Opnd) (ty : Ty) (sub : BitVec 12 := 0) : FForm :=
  ⟨k7, g0, d, false, a, b, c, ty, .i8, .rne, false, sub⟩

/-- The same with a result under tag 0. -/
def T (d a b c : Opnd) (ty : Ty) (sub : BitVec 12 := 0) : FForm := { F d a b c ty sub with ctl := k0 }

/-- A form I word. -/
def I (d a : Opnd) (mod9 : BitVec 9) (imm : Word) : IForm := ⟨k7, g0, d, false, a, mod9, imm⟩

/-- One live thread of a role in a slot of core 0. -/
def thr (q : Nat) (role : Role) (regs : SMap 32) : Thread :=
  { Thread.blank 0 q with role := role, live := true, regs := regs }

/-- A block of one core with the given threads, the first `n` slots acting. -/
def blk (ts : List Thread) (slots : List Nat) : State :=
  { State.reset with
    blocks := [{ Block.blank 0 with rect := 1, roles := [⟨.gen, 0, 63, 48, 384, 0, 0⟩] }]
    threads := ts
    actor := .party 0 slots }

/-- One acting thread in slot 0. -/
def one (role : Role) (regs : SMap 32) : State := blk [thr 0 role regs] [0]

/-- The state after an instruction. -/
def run (i : Instr) (s : State) : State :=
  match exec i s with
  | .next t => t
  | _ => State.reset

/-- The state after a step. -/
def stepped (s : State) : State :=
  match step s with
  | .next t => t
  | _ => State.reset

def th (s : State) : Thread := s.thread 0 0
def reg (s : State) (n : Nat) : Nat := (SMap.get (th s).regs n).toNat

/-- Register `n` of a GEN thread after one word. -/
def val (i : Instr) (regs : SMap 32) (n : Nat) : Nat := reg (run i (one .gen regs)) n

/-- The registers that the thread's newest result will write, and the values. -/
def owed (s : State) : List (RegDst × Nat) := ((th s).pend.getLast?.map (fun p => p.dst.map (fun x => (x.1, x.2.toNat)))).getD []

/-- The result of a word under a tag. -/
def due (i : Instr) (regs : SMap 32) : List (RegDst × Nat) := owed (run i (one .gen regs))

/-- The hypothesis of `Completes` for a party of one thread; what the word leaves does not matter to it. -/
def meets (i : Instr) (ok : State → Nat → Nat → Bool) (s : State) : Bool :=
  match s.actor with
  | .party c [q] => partyOk i ok justNext justNext c s [q] && guardOn i s c q
  | _ => false

/-- For one thread the hypothesis is the same whatever the effects are. -/
theorem meets_sound {i : Instr} {ok : State → Nat → Nat → Bool} {s : State} {c q : Nat} (on off : Effect)
    (ha : s.actor = .party c [q]) (h : meets i ok s = true) : partyOk i ok on off c s [q] = true := by
  simp only [meets, ha, Bool.and_eq_true] at h
  simpa only [partyOk] using h.1

/-- The hypothesis of `Traps`: the cause that a thread's operands give. -/
def trapped (i : Instr) (why : State → Nat → Nat → Option (State × Trap)) (s : State) : Option Nat :=
  match s.actor with
  | .party c [q] =>
    if mayIssue i s c q && guardOn i s c q then (why (issueState i s c q) c q).map (fun x => x.2.cause) else none
  | _ => none

/-- A state with a handler, and the cause that a word of its thread raises there. -/
def causeOf (i : Instr) (s : State) : Nat :=
  (th (run i { s with blocks := s.blocks.map (fun b => { b with tvec := 7 }) })).tcause.toNat % 256

/-! ## Terms that the field rules refuse: one for each check -/

/-- Form F integers (R354): a type outside the entry, .SAT where the entry has none, .HI likewise, .SAT with .HI, a
reserved COND, a predicate in an entry without one, an unused operand that is not 452, a tag, a wide NWB. -/
theorem test_refused_integer :
    ([.add (F (.v 1) (.v 2) (.v 3) .zero .f32), .and { F (.v 1) (.v 2) (.v 3) .zero .i32 with sat := true },
      .add (F (.v 1) (.v 2) (.v 3) .zero .i32 0x100), .mul { F (.v 1) (.v 2) (.v 3) .zero .i32 0x100 with sat := true },
      .cmp (F .zero (.v 2) (.v 3) .zero .i32 0xC00), .add (F (.v 1) (.v 2) (.v 3) .zero .i32 0x001),
      .add (F (.v 1) (.v 2) (.v 3) (.v 4) .i32), .add (T (.v 1) (.v 2) (.v 3) .zero .i32),
      .add { F (.v 2) (.v 4) (.v 6) .zero .i64 with nwb := true },
      .addImm (I (.v 1) (.v 2) 0x041 5), .shaImm (I (.v 1) (.v 2) 0x0C0 5)] : List Instr).all
      (fun i => !i.wf && !i.encodingOk) = true := by decide

/-- Moves (class 1): a PLOP with a tag, an SRD without one, NOP with MOD, MOVI with MOD9. -/
theorem test_refused_move :
    ([.plop { T .zero .zero .zero .zero .i8 with ty2 := .n8 }, .srd (F (.v 1) .zero .zero .zero .i8 0x040),
      .nop (F .zero .zero .zero .zero .i8 1), .movi (I (.v 1) .zero 1 5), .mov (F (.v 1) (.v 2) .zero .zero .i32),
      .movx (F (.v 1) (.v 2) (.v 3) (.v 4) .i8), .elect (F (.v 1) .zero .zero .zero .i8 0x010)] : List Instr).all
      (fun i => !i.wf && !i.encodingOk) = true := by decide

/-- Floating point (R398): an integer type, a rounding mode in FMIN, .SAT in FADD, a class 3 word without a tag. -/
theorem test_refused_float :
    ([.fadd (F (.v 1) (.v 2) (.v 3) .zero .i32), .fmin { F (.v 1) (.v 2) (.v 3) .zero .f32 with rm := .rz },
      .fadd { F (.v 1) (.v 2) (.v 3) .zero .f32 with sat := true }, .rcp (F (.v 1) (.v 2) .zero .zero .f32),
      .rcp (T (.v 1) (.v 2) .zero .zero .f16), .fcvt { F (.v 1) (.v 2) .zero .zero .f32 with ty2 := .f32, sat := true },
      .faddImm (I (.v 1) (.v 2) 0x120 0), .fminImm (I (.v 1) (.v 2) 0x108 0)] : List Instr).all
      (fun i => !i.wf && !i.encodingOk) = true := by decide

/-- Cross-lane words (R423): no tag, a reserved MODE, a width of 0, a width in MATCH. -/
theorem test_refused_cross_lane :
    ([.vote (F (.v 1) (.v 2) .zero (.s 1) .i8), .vote (T (.v 1) (.v 2) .zero (.s 1) .i8 0x600),
      .shfl (T (.v 1) (.v 2) (.v 3) (.s 1) .n32 0x000), .matchLanes (T (.v 1) (.v 2) .zero (.s 1) .n32 0x040),
      .redl (T (.v 1) (.v 2) .zero (.s 1) .f32 0x600)] : List Instr).all (fun i => !i.wf && !i.encodingOk) = true := by
  decide

/-- Loads and stores (R415, R477): SIZE 5, SX at four bytes, a LANE without TYPED, PLC in a global load, a store with a
tag, a tile above 15. -/
theorem test_refused_load_store :
    ([.ld { I (.v 4) (.v 2) 0x140 0 with ctl := k0 }, .ld { I (.v 4) (.v 2) 0x090 0 with ctl := k0 },
      .ld { I (.v 4) (.v 2) 0x081 0 with ctl := k0 }, .ld { I (.v 4) (.v 2) 0x088 0 with ctl := k0 },
      .st { I (.v 4) (.v 2) 0x080 0 with ctl := k0 }, .tld (I (.v 16) (.v 2) 0 0)] : List Instr).all
      (fun i => !i.wf && !i.encodingOk) = true := by decide

/-- Atomics (R365, R218): an operation on a type it lacks, a reserved order, ACQ for RED, a wait with BMODE, a barrier
above 31. -/
theorem test_refused_atomic :
    ([.atom (T (.v 4) (.v 2) (.v 6) .zero .f32 0x004), .atom (T (.v 4) (.v 2) (.v 6) .zero .n32 0xA00),
      .red (F .zero (.v 2) (.v 6) .zero .n32 0x200), .fence (F .zero .zero .zero .zero .i8 0x000),
      .waitf (F .zero (.v 2) (.v 3) (.v 4) .n32 0x30D), .barArv (F .zero (.v 32) .zero .zero .i8),
      .setfSt (F .zero (.v 2) (.v 3) (.v 4) .n32 0x204)] : List Instr).all (fun i => !i.wf && !i.encodingOk) = true := by
  decide

/-- Transactions and engines (R238, R340): an odd lock register, a code above 255, a guarded TXE, a barrier number
without ARV, TCPY.RESUME without a completion word. -/
theorem test_refused_transaction_engine :
    ([.txb (I .zero (.v 3) 4 20), .txb (I .zero (.v 2) 5 20), .txa (I .zero .zero 0 256),
      .txe { T (.v 6) .zero .zero .zero .i8 3 with g := ⟨false, 1⟩ }, .tcpy (F .zero (.v 2) (.v 4) (.v 6) .i8 0x01F),
      .tcpyResume (F .zero (.v 2) (.v 4) .zero .i8 0x800), .tseal (F .zero (.v 2) .zero .zero .i8)] : List Instr).all
      (fun i => !i.wf && !i.encodingOk) = true := by decide

/-- Matrix, residue and control words: a type that ACCRD lacks, SUB bits outside the entry, RNSR of an accumulator that
starts no quad, MOD in a control word, LOOP with END 0, a pair with a tag, BRM without a pair. -/
theorem test_refused_matrix_control :
    ([.accrd (T (.v 8) (.v 6) .zero .zero .i32), .accwr (F .zero (.v 6) (.v 7) .zero .f32 0x020),
      .rnsr (T (.v 16) (.v 6) .zero .zero .i8 1), .rnschk (F (.v 20) (.v 12) .zero .zero .i8),
      .brx (F .zero (.v 2) .zero .zero .i8 1), .svc (I .zero .zero 1 0), .loop ⟨k7, 0, .s 4, 0, 63, 0, 0⟩,
      .loop ⟨k7, 0, .s 4, 9, 63, 1, 0⟩, .pair k0 ⟨.add, .v 1, false, .v 2, .v 3, 0⟩ ⟨.add, .v 4, false, .v 5, .v 6, 0⟩,
      .pair k7 ⟨.mov, .v 1, false, .v 2, .v 3, 0⟩ ⟨.add, .v 4, false, .v 5, .v 6, 0⟩, .brm k7 [],
      .bra k0 g0 1, .join ⟨k0, false, 1, .v 2, .v 3⟩] : List Instr).all (fun i => !i.wf && !i.encodingOk) = true := by
  decide

/-- Stream words (R132, R425): a control field, a guard, a vector exponent register, a tile above 15, an accumulator
above 31, a reserved BAR mode. -/
theorem test_refused_stream :
    ([.mmad { I (.v 2) (.v 5) 0 0 with ctl := k7 }, .mmad { I (.v 2) (.v 16) 0 0 with ctl := k0 },
      .mmad { I (.v 32) (.v 5) 0 0 with ctl := k0 }, .mmad { I (.v 2) (.v 5) 4 0 with ctl := k0 },
      .mend { T .zero .zero .zero .zero .i8 with g := ⟨false, 1⟩ }, .mbarWt (T .zero .zero .zero .zero .i8 0x200),
      .mzero (T .zero (.v 3) .zero .zero .i8 7), .mjmp { I (.v 1) .zero 0 0 with ctl := k0 }] : List Instr).all
      (fun i => !i.wfStream && !i.streamEncodingOk) = true := by decide

/-- Operands (R65, R66, R69): an odd pair base, a quad base, a destination that may not be uniform or a latch, a
reserved code, a latch in a pair, an unknown system register, a window that leaves the file. EXTRA names the field
(R272). -/
theorem test_refused_operand :
    (([.add (F (.v 1) (.v 2) (.v 4) .zero .i64), .add (F (.v 2) (.v 3) (.v 4) .zero .i64),
      .add (F (.v 2) (.v 4) (.v 383) .zero .i64), .add (F (.k 1) (.v 2) (.v 4) .zero .i32),
      .add (F (.v 1) (.res 0) (.v 4) .zero .i32), .add (F (.v 2) (.k 0) (.v 4) .zero .i64),
      .accrd (T (.s 8) (.v 6) .zero .zero .f32), .srd (T (.v 6) .zero .zero .zero .i8 0x045),
      .loop ⟨k7, 0, .s 4, 9, 48, 0, 0⟩, .movx (F (.v 1) .zero (.v 3) .zero .i8)] : List Instr).map Instr.operandFault
      = [some 0, some 1, some 2, some 0, some 1, some 1, some 0, some 4, some 6, some 1]) ∧
    (Instr.add (F (.v 1) (.v 2) (.v 4) .zero .i64)).wf = false := by decide

/-- The pairs of R338's example: Y reads what X writes; four reads of bank 2; the legal one. -/
theorem test_refused_pair :
    (Instr.pair k7 ⟨.fadd, .v 1, false, .v 2, .v 3, 0⟩ ⟨.fmul, .v 4, false, .v 1, .v 5, 0⟩).pairRuleOk = false ∧
    (Instr.pair k7 ⟨.fadd, .v 1, false, .v 2, .v 6, 0⟩ ⟨.fmul, .v 4, false, .v 10, .v 14, 0⟩).pairRuleOk = false ∧
    (Instr.pair k7 ⟨.fadd, .v 1, false, .v 2, .v 6, 0⟩ ⟨.fmul, .v 4, false, .v 10, .v 14, 0⟩).wf = false ∧
    (Instr.pair k7 ⟨.fmac, .v 8, false, .v 2, .v 3, 0⟩ ⟨.fmac, .v 9, false, .v 2, .v 7, 0⟩).wf = true := by decide

/-- An event has no encoding. -/
theorem test_refused_event : (Instr.rqdb 0 0).wf = false ∧ (Instr.mgsemTimeout).wf = false := by decide

/-! ## Words written out from the encodings of R329 to R345 -/

/-- Class 0x0 (integer words): add, sub, mul, mad, abs, min, max, and, or, xor, not, shl. -/
theorem test_decode_integer_1 :
    decodeThread 0x383C00000A05307C4A901000 = .ok (.add ⟨⟨7, 3, true, true⟩, ⟨true, 5⟩, .v 10, false, .v 20, .s 3, .zero, .i32, .i8, .rne, true, 0x0⟩) ∧
    decodeThread 0x380000020A0502DC40380000 = .ok (.sub ⟨k7, g0, .v 10, false, .v 20, .v 22, .zero, .n64, .i8, .rne, false, 0x0⟩) ∧
    decodeThread 0x380000040A05307C40300100 = .ok (.mul ⟨k7, g0, .v 10, false, .v 20, .s 3, .zero, .n32, .i8, .rne, false, 0x100⟩) ∧
    decodeThread 0x380000060A053081E0181000 = .ok (.mad ⟨k7, g0, .v 10, false, .v 20, .s 4, .v 30, .i64, .i8, .rne, true, 0x0⟩) ∧
    decodeThread 0x380000080A70789C40101000 = .ok (.abs ⟨k7, g0, .v 10, false, .k 1, .zero, .zero, .i32, .i8, .rne, true, 0x0⟩) ∧
    decodeThread 0x3800000BC47178DC40300000 = .ok (.min ⟨k7, g0, .zero, false, .lane, .slot, .zero, .n32, .i8, .rne, false, 0x0⟩) ∧
    decodeThread 0x3800000C0A85307C40100000 = .ok (.max ⟨k7, g0, .v 10, true, .v 20, .s 3, .zero, .i32, .i8, .rne, false, 0x0⟩) ∧
    decodeThread 0x3800000F8505307C40300000 = .ok (.and ⟨k7, g0, .s 5, false, .v 20, .s 3, .zero, .n32, .i8, .rne, false, 0x0⟩) ∧
    decodeThread 0x380000100A052FFC40100000 = .ok (.or ⟨k7, g0, .v 10, false, .v 20, .v 383, .zero, .i32, .i8, .rne, false, 0x0⟩) ∧
    decodeThread 0x380000120A0537FC47B00000 = .ok (.xor ⟨k7, ⟨false, 15⟩, .v 10, false, .v 20, .s 63, .zero, .n32, .i8, .rne, false, 0x0⟩) ∧
    decodeThread 0x380000140A05389C40380000 = .ok (.not ⟨k7, g0, .v 10, false, .v 20, .zero, .zero, .n64, .i8, .rne, false, 0x0⟩) ∧
    decodeThread 0x380000160A05307C40380000 = .ok (.shl ⟨k7, g0, .v 10, false, .v 20, .s 3, .zero, .n64, .i8, .rne, false, 0x0⟩) := by decide

/-- Class 0x0 (integer words): shr, sha, popc, clz, brev, bfx, bfi, lea, cmp, sel, addImm, subImm. -/
theorem test_decode_integer_2 :
    decodeThread 0x380000180A05307C40300000 = .ok (.shr ⟨k7, g0, .v 10, false, .v 20, .s 3, .zero, .n32, .i8, .rne, false, 0x0⟩) ∧
    decodeThread 0x3800001A0A05307C40180000 = .ok (.sha ⟨k7, g0, .v 10, false, .v 20, .s 3, .zero, .i64, .i8, .rne, false, 0x0⟩) ∧
    decodeThread 0x3800001C0B05389C40380000 = .ok (.popc ⟨k7, g0, .v 11, false, .v 20, .zero, .zero, .n64, .i8, .rne, false, 0x0⟩) ∧
    decodeThread 0x3800001E0B05389C40300000 = .ok (.clz ⟨k7, g0, .v 11, false, .v 20, .zero, .zero, .n32, .i8, .rne, false, 0x0⟩) ∧
    decodeThread 0x380000200A05389C40300000 = .ok (.brev ⟨k7, g0, .v 10, false, .v 20, .zero, .zero, .n32, .i8, .rne, false, 0x0⟩) ∧
    decodeThread 0x380000220A05389830100000 = .ok (.bfx ⟨k7, g0, .v 10, false, .v 20, .zero, .s 3, .i32, .i8, .rne, false, 0x0⟩) ∧
    decodeThread 0x380000240A0502B830300000 = .ok (.bfi ⟨k7, g0, .v 10, false, .v 20, .v 21, .s 3, .n32, .i8, .rne, false, 0x0⟩) ∧
    decodeThread 0x38000026026038D870300000 = .ok (.lea ⟨k7, g0, .v 2, false, .s 0, .slot, .s 7, .n32, .i8, .rne, false, 0x0⟩) ∧
    decodeThread 0x38000029C400405C40100403 = .ok (.cmp ⟨k7, g0, .zero, false, .v 1, .v 2, .zero, .i32, .i8, .rne, false, 0x403⟩) ∧
    decodeThread 0x3800002A0A05307C40300007 = .ok (.sel ⟨k7, g0, .v 10, false, .v 20, .s 3, .zero, .n32, .i8, .rne, false, 0x7⟩) ∧
    decodeThread 0x780000000500C0C080000000 = .ok (.addImm ⟨k7, g0, .v 5, false, .v 3, 0xc0, 0x80000000⟩) ∧
    decodeThread 0x780000020500C0C080000001 = .ok (.subImm ⟨k7, g0, .v 5, false, .v 3, 0xc0, 0x80000001⟩) := by decide

/-- Class 0x0 (integer words): minImm, maxImm, andImm, orImm, xorImm, shlImm, shrImm, mulImm, shaImm. -/
theorem test_decode_integer_3 :
    decodeThread 0x7800000A0500C0C080000005 = .ok (.minImm ⟨k7, g0, .v 5, false, .v 3, 0xc0, 0x80000005⟩) ∧
    decodeThread 0x7800000C0500C0C080000006 = .ok (.maxImm ⟨k7, g0, .v 5, false, .v 3, 0xc0, 0x80000006⟩) ∧
    decodeThread 0x7800000E0500C0C080000007 = .ok (.andImm ⟨k7, g0, .v 5, false, .v 3, 0xc0, 0x80000007⟩) ∧
    decodeThread 0x780000100500C0C080000008 = .ok (.orImm ⟨k7, g0, .v 5, false, .v 3, 0xc0, 0x80000008⟩) ∧
    decodeThread 0x780000120500C0C080000009 = .ok (.xorImm ⟨k7, g0, .v 5, false, .v 3, 0xc0, 0x80000009⟩) ∧
    decodeThread 0x780000160500C0C08000000B = .ok (.shlImm ⟨k7, g0, .v 5, false, .v 3, 0xc0, 0x8000000b⟩) ∧
    decodeThread 0x780000180500C0C08000000C = .ok (.shrImm ⟨k7, g0, .v 5, false, .v 3, 0xc0, 0x8000000c⟩) ∧
    decodeThread 0x7800000406010068FFFFFFFF = .ok (.mulImm ⟨k7, g0, .v 6, false, .v 4, 0x68, 0xffffffff⟩) ∧
    decodeThread 0x7800001A0500C04000000004 = .ok (.shaImm ⟨k7, g0, .v 5, false, .v 3, 0x40, 0x4⟩) := by decide

/-- Class 0x1 (move words): mov, movi, movx, movxw, srd, swr, elect, plop, nop. -/
theorem test_decode_move :
    decodeThread 0x380002000602389C40380000 = .ok (.mov ⟨k7, g0, .v 6, false, .v 8, .zero, .zero, .n64, .i8, .rne, false, 0x0⟩) ∧
    decodeThread 0x78000202047100003FC00000 = .ok (.movi ⟨k7, g0, .v 4, false, .zero, 0x0, 0x3fc00000⟩) ∧
    decodeThread 0x380002041404007C40000000 = .ok (.movx ⟨k7, g0, .v 20, false, .v 16, .v 3, .zero, .i8, .i8, .rne, false, 0x0⟩) ∧
    decodeThread 0x380002060A00C11C40000000 = .ok (.movxw ⟨k7, g0, .v 10, false, .v 3, .v 8, .zero, .i8, .i8, .rne, false, 0x0⟩) ∧
    decodeThread 0x080002080671389C40000040 = .ok (.srd ⟨⟨1, 0, false, false⟩, g0, .v 6, false, .zero, .zero, .zero, .i8, .i8, .rne, false, 0x40⟩) ∧
    decodeThread 0x3800020BC401389C40000004 = .ok (.swr ⟨k7, g0, .zero, false, .v 4, .zero, .zero, .i8, .i8, .rne, false, 0x4⟩) ∧
    decodeThread 0x3800020C0371389C40000005 = .ok (.elect ⟨k7, g0, .v 3, false, .zero, .zero, .zero, .i8, .i8, .rne, false, 0x5⟩) ∧
    decodeThread 0x3800020FC471389C40040321 = .ok (.plop ⟨k7, g0, .zero, false, .zero, .zero, .zero, .i8, .f32, .rne, false, 0x321⟩) ∧
    decodeThread 0x38000211C471389C40000000 = .ok (.nop ⟨k7, g0, .zero, false, .zero, .zero, .zero, .i8, .i8, .rne, false, 0x0⟩) := by decide

/-- Class 0x2 (float words): fadd, fmul, ffma, fmin, fmax, fcmp, fcvt, fclass, frnd, fdiv, faddImm, fmulImm. -/
theorem test_decode_float_1 :
    decodeThread 0x380004000501307C40404000 = .ok (.fadd ⟨k7, g0, .v 5, false, .v 4, .s 3, .zero, .f32, .i8, .ru, false, 0x0⟩) ∧
    decodeThread 0x380004020501307C40400000 = .ok (.fmul ⟨k7, g0, .v 5, false, .v 4, .s 3, .zero, .f32, .i8, .rne, false, 0x0⟩) ∧
    decodeThread 0x383004040861422154C00000 = .ok (.ffma ⟨⟨7, 3, false, false⟩, ⟨false, 9⟩, .v 8, false, .s 5, .v 17, .v 21, .f32, .i8, .rne, false, 0x0⟩) ∧
    decodeThread 0x380004060501307C40500000 = .ok (.fmin ⟨k7, g0, .v 5, false, .v 4, .s 3, .zero, .bf16, .i8, .rne, false, 0x0⟩) ∧
    decodeThread 0x380004080501307C40480000 = .ok (.fmax ⟨k7, g0, .v 5, false, .v 4, .s 3, .zero, .f16, .i8, .rne, false, 0x0⟩) ∧
    decodeThread 0x3800040BC401307C40400E09 = .ok (.fcmp ⟨k7, g0, .zero, false, .v 4, .s 3, .zero, .f32, .i8, .rne, false, 0xe09⟩) ∧
    decodeThread 0x3800040C0501389C40042000 = .ok (.fcvt ⟨k7, g0, .v 5, false, .v 4, .zero, .zero, .i8, .f32, .rz, false, 0x0⟩) ∧
    decodeThread 0x3800040E0501389C40680000 = .ok (.fclass ⟨k7, g0, .v 5, false, .v 4, .zero, .zero, .e2m1, .i8, .rne, false, 0x0⟩) ∧
    decodeThread 0x380004100501389C40406000 = .ok (.frnd ⟨k7, g0, .v 5, false, .v 4, .zero, .zero, .f32, .i8, .rd, false, 0x0⟩) ∧
    decodeThread 0x200004120501307C40400000 = .ok (.fdiv ⟨⟨4, 0, false, false⟩, g0, .v 5, false, .v 4, .s 3, .zero, .f32, .i8, .rne, false, 0x0⟩) ∧
    decodeThread 0x780004000500C1103F800000 = .ok (.faddImm ⟨k7, g0, .v 5, false, .v 3, 0x110, 0x3f800000⟩) ∧
    decodeThread 0x780004020500C1103F800000 = .ok (.fmulImm ⟨k7, g0, .v 5, false, .v 3, 0x110, 0x3f800000⟩) := by decide

/-- Class 0x2 (float words): fminImm, fmaxImm. -/
theorem test_decode_float_2 :
    decodeThread 0x780004060500C1003F800000 = .ok (.fminImm ⟨k7, g0, .v 5, false, .v 3, 0x100, 0x3f800000⟩) ∧
    decodeThread 0x780004080500C1003F800000 = .ok (.fmaxImm ⟨k7, g0, .v 5, false, .v 3, 0x100, 0x3f800000⟩) := by decide

/-- Class 0x3 (special_function words): rcp, rsq, sqrt, ex2, lg2, sin, cos, tanh. -/
theorem test_decode_special_function :
    decodeThread 0x000006000900789C40404000 = .ok (.rcp ⟨k0, g0, .v 9, false, .v 1, .zero, .zero, .f32, .i8, .ru, false, 0x0⟩) ∧
    decodeThread 0x080006020900789C40400000 = .ok (.rsq ⟨⟨1, 0, false, false⟩, g0, .v 9, false, .v 1, .zero, .zero, .f32, .i8, .rne, false, 0x0⟩) ∧
    decodeThread 0x100006040900789C40404000 = .ok (.sqrt ⟨⟨2, 0, false, false⟩, g0, .v 9, false, .v 1, .zero, .zero, .f32, .i8, .ru, false, 0x0⟩) ∧
    decodeThread 0x180006060900789C40400000 = .ok (.ex2 ⟨⟨3, 0, false, false⟩, g0, .v 9, false, .v 1, .zero, .zero, .f32, .i8, .rne, false, 0x0⟩) ∧
    decodeThread 0x200006080900789C40400000 = .ok (.lg2 ⟨⟨4, 0, false, false⟩, g0, .v 9, false, .v 1, .zero, .zero, .f32, .i8, .rne, false, 0x0⟩) ∧
    decodeThread 0x2800060A0900789C40400000 = .ok (.sin ⟨⟨5, 0, false, false⟩, g0, .v 9, false, .v 1, .zero, .zero, .f32, .i8, .rne, false, 0x0⟩) ∧
    decodeThread 0x3000060C0900789C40400000 = .ok (.cos ⟨⟨6, 0, false, false⟩, g0, .v 9, false, .v 1, .zero, .zero, .f32, .i8, .rne, false, 0x0⟩) ∧
    decodeThread 0x0000060E0900789C40400000 = .ok (.tanh ⟨k0, g0, .v 9, false, .v 1, .zero, .zero, .f32, .i8, .rne, false, 0x0⟩) := by decide

/-- Class 0x4 (cross_lane words): shfl, pushl, vote, matchLanes, projl, proj, redl. -/
theorem test_decode_cross_lane :
    decodeThread 0x0000080003013038203002C1 = .ok (.shfl ⟨k0, g0, .v 3, false, .v 4, .s 1, .s 2, .n32, .i8, .rne, false, 0x2c1⟩) ∧
    decodeThread 0x08000802030140D8203000C2 = .ok (.pushl ⟨⟨1, 0, false, false⟩, g0, .v 3, false, .v 5, .v 6, .s 2, .n32, .i8, .rne, false, 0xc2⟩) ∧
    decodeThread 0x100008040301389820000404 = .ok (.vote ⟨⟨2, 0, false, false⟩, g0, .v 3, false, .v 4, .zero, .s 2, .i8, .i8, .rne, false, 0x404⟩) ∧
    decodeThread 0x102008060801F88090300000 = .ok (.matchLanes ⟨⟨2, 2, false, false⟩, g0, .v 8, false, .v 7, .zero, .v 9, .n32, .i8, .rne, false, 0x0⟩) ∧
    decodeThread 0x00000809C401789820000041 = .ok (.projl ⟨k0, g0, .zero, false, .v 5, .zero, .s 2, .i8, .i8, .rne, false, 0x41⟩) ∧
    decodeThread 0x0800080A0602789820300042 = .ok (.proj ⟨⟨1, 0, false, false⟩, g0, .v 6, false, .v 9, .zero, .s 2, .n32, .i8, .rne, false, 0x42⟩) ∧
    decodeThread 0x3000080C0602389820180A00 = .ok (.redl ⟨⟨6, 0, false, false⟩, g0, .v 6, false, .v 8, .zero, .s 2, .i64, .i8, .rne, false, 0xa00⟩) := by decide

/-- Class 0x5 (load_store words): ld, st, ldx, stx, ldw, tld. -/
theorem test_decode_load_store :
    decodeThread 0x58000A00080080A0000009C4 = .ok (.ld ⟨⟨3, 0, false, false⟩, g0, .v 8, false, .v 2, 0xa0, 0x9c4⟩) ∧
    decodeThread 0x78000A020900808000000040 = .ok (.st ⟨k7, g0, .v 9, false, .v 2, 0x80, 0x40⟩) ∧
    decodeThread 0x40000A040800C10800000010 = .ok (.ldx ⟨k0, g0, .v 8, false, .v 3, 0x108, 0x10⟩) ∧
    decodeThread 0x78000A060800C0C8FFFFFFF8 = .ok (.stx ⟨k7, g0, .v 8, false, .v 3, 0xc8, 0xfffffff8⟩) ∧
    decodeThread 0x68000A080800C05000000002 = .ok (.ldw ⟨⟨5, 0, false, false⟩, g0, .v 8, false, .v 3, 0x50, 0x2⟩) ∧
    decodeThread 0x78000A0A0302800000000000 = .ok (.tld ⟨k7, g0, .v 3, false, .v 10, 0x0, 0x0⟩) := by decide

/-- Class 0x6 (atomic words): atom, cas, red, atomx, fence, setfSt, setfAdd, waitf, waitw, barArv, barWt, barSync. -/
theorem test_decode_atomic :
    decodeThread 0x00000C00066100FC40300720 = .ok (.atom ⟨k0, g0, .v 6, false, .s 4, .v 7, .zero, .n32, .i8, .rne, false, 0x720⟩) ∧
    decodeThread 0x08000C0206610100A01809C0 = .ok (.cas ⟨⟨1, 0, false, false⟩, g0, .v 6, false, .s 4, .v 8, .v 10, .i64, .i8, .rne, false, 0x9c0⟩) ∧
    decodeThread 0x38000C05C46100FC40400554 = .ok (.red ⟨k7, g0, .zero, false, .s 4, .v 7, .zero, .f32, .i8, .rne, false, 0x554⟩) ∧
    decodeThread 0x18000C07C40381BC41300000 = .ok (.atomx ⟨⟨3, 0, false, false⟩, ⟨false, 2⟩, .zero, false, .v 14, .v 13, .zero, .n32, .i8, .rne, false, 0x0⟩) ∧
    decodeThread 0x38000C09C471389C40000500 = .ok (.fence ⟨k7, g0, .zero, false, .zero, .zero, .zero, .i8, .i8, .rne, false, 0x500⟩) ∧
    decodeThread 0x38000C0BC461004080300500 = .ok (.setfSt ⟨k7, g0, .zero, false, .s 4, .v 2, .v 8, .n32, .i8, .rne, false, 0x500⟩) ∧
    decodeThread 0x38000C0BC461004080300504 = .ok (.setfAdd ⟨k7, g0, .zero, false, .s 4, .v 2, .v 8, .n32, .i8, .rne, false, 0x504⟩) ∧
    decodeThread 0x38000C0DC4030080C0300304 = .ok (.waitf ⟨k7, g0, .zero, false, .v 12, .v 4, .v 12, .n32, .i8, .rne, false, 0x304⟩) ∧
    decodeThread 0x38000C0FC403389C400003C0 = .ok (.waitw ⟨k7, g0, .zero, false, .v 12, .zero, .zero, .i8, .i8, .rne, false, 0x3c0⟩) ∧
    decodeThread 0x38000C11C401389C40000000 = .ok (.barArv ⟨k7, g0, .zero, false, .v 4, .zero, .zero, .i8, .i8, .rne, false, 0x0⟩) ∧
    decodeThread 0x38000C11C407C0FC40000001 = .ok (.barWt ⟨k7, g0, .zero, false, .v 31, .v 7, .zero, .i8, .i8, .rne, false, 0x1⟩) ∧
    decodeThread 0x38000C11C40100FC40000002 = .ok (.barSync ⟨k7, g0, .zero, false, .v 4, .v 7, .zero, .i8, .i8, .rne, false, 0x2⟩) := by decide

/-- Class 0x7 (transaction words): txb, txe, txa, txq. -/
theorem test_decode_transaction :
    decodeThread 0x78000E01C400800400000014 = .ok (.txb ⟨k7, g0, .zero, false, .v 2, 0x4, 0x14⟩) ∧
    decodeThread 0x00000E020671389C40000003 = .ok (.txe ⟨k0, g0, .v 6, false, .zero, .zero, .zero, .i8, .i8, .rne, false, 0x3⟩) ∧
    decodeThread 0x78000E05C4710000000000FF = .ok (.txa ⟨k7, g0, .zero, false, .zero, 0x0, 0xff⟩) ∧
    decodeThread 0x30000E060771389C40000000 = .ok (.txq ⟨⟨6, 0, false, false⟩, g0, .v 7, false, .zero, .zero, .zero, .i8, .i8, .rne, false, 0x0⟩) := by decide

/-- Class 0x8 (engine words): tcpy, tcpyResume, tseal, twait, pfetch, coll, emit. -/
theorem test_decode_engine :
    decodeThread 0x38001001C40080806000041F = .ok (.tcpy ⟨k7, g0, .zero, false, .v 2, .v 4, .v 6, .i8, .i8, .rne, false, 0x41f⟩) ∧
    decodeThread 0x38001001C46331D900000800 = .ok (.tcpyResume ⟨k7, g0, .zero, false, .s 12, .s 14, .s 16, .i8, .i8, .rne, false, 0x800⟩) ∧
    decodeThread 0x38001003C471389C40000000 = .ok (.tseal ⟨k7, g0, .zero, false, .zero, .zero, .zero, .i8, .i8, .rne, false, 0x0⟩) ∧
    decodeThread 0x38001005C400789C40000000 = .ok (.twait ⟨k7, g0, .zero, false, .v 1, .zero, .zero, .i8, .i8, .rne, false, 0x0⟩) ∧
    decodeThread 0x38001007C40080DC40000000 = .ok (.pfetch ⟨k7, g0, .zero, false, .v 2, .v 6, .zero, .i8, .i8, .rne, false, 0x0⟩) ∧
    decodeThread 0x38001009C400B89C40000405 = .ok (.coll ⟨k7, g0, .zero, false, .v 2, .zero, .zero, .i8, .i8, .rne, false, 0x405⟩) ∧
    decodeThread 0x3800100BC400C0FC40000002 = .ok (.emit ⟨k7, g0, .zero, false, .v 3, .v 7, .zero, .i8, .i8, .rne, false, 0x2⟩) := by decide

/-- Class 0x9 (matrix words): mzero, mzeroAuto, mzeroRns, mstart, mstartResume, accrd, accwr, bndset, bndsetKh,
bndsetGet. -/
theorem test_decode_matrix :
    decodeThread 0x38001203C400F89C4000001F = .ok (.mzero ⟨k7, g0, .zero, false, .v 3, .zero, .zero, .i8, .i8, .rne, false, 0x1f⟩) ∧
    decodeThread 0x38001203C471389C40000403 = .ok (.mzeroAuto ⟨k7, g0, .zero, false, .zero, .zero, .zero, .i8, .i8, .rne, false, 0x403⟩) ∧
    decodeThread 0x38001203C471389C40000804 = .ok (.mzeroRns ⟨k7, g0, .zero, false, .zero, .zero, .zero, .i8, .i8, .rne, false, 0x804⟩) ∧
    decodeThread 0x3800120BC400809C40000000 = .ok (.mstart ⟨k7, g0, .zero, false, .v 2, .v 4, .zero, .i8, .i8, .rne, false, 0x0⟩) ∧
    decodeThread 0x3800120BC471009C40000080 = .ok (.mstartResume ⟨k7, g0, .zero, false, .zero, .v 4, .zero, .i8, .i8, .rne, false, 0x80⟩) ∧
    decodeThread 0x0000120C0801B31C40500400 = .ok (.accrd ⟨k0, g0, .v 8, false, .v 6, .s 24, .zero, .bf16, .i8, .rne, false, 0x400⟩) ∧
    decodeThread 0x3800120FC40180FC40400009 = .ok (.accwr ⟨k7, g0, .zero, false, .v 6, .v 7, .zero, .f32, .i8, .rne, false, 0x9⟩) ∧
    decodeThread 0x38001211C40180FC40000000 = .ok (.bndset ⟨k7, g0, .zero, false, .v 6, .v 7, .zero, .i8, .i8, .rne, false, 0x0⟩) ∧
    decodeThread 0x38001211C40180FC40000100 = .ok (.bndsetKh ⟨k7, g0, .zero, false, .v 6, .v 7, .zero, .i8, .i8, .rne, false, 0x100⟩) ∧
    decodeThread 0x38001211C40180FC40000200 = .ok (.bndsetGet ⟨k7, g0, .zero, false, .v 6, .v 7, .zero, .i8, .i8, .rne, false, 0x200⟩) := by decide

/-- Class 0xa (residue words): rnscfgSet, rnscfgGet, rnsf, rnsr, rnschk. -/
theorem test_decode_residue :
    decodeThread 0x38001401C401B89C40000000 = .ok (.rnscfgSet ⟨k7, g0, .zero, false, .v 6, .zero, .zero, .i8, .i8, .rne, false, 0x0⟩) ∧
    decodeThread 0x38001401C401B89C40000400 = .ok (.rnscfgGet ⟨k7, g0, .zero, false, .v 6, .zero, .zero, .i8, .i8, .rne, false, 0x400⟩) ∧
    decodeThread 0x38201403C40100A0B0100000 = .ok (.rnsf ⟨⟨7, 2, false, false⟩, g0, .zero, false, .v 4, .v 5, .v 11, .i32, .i8, .rne, false, 0x0⟩) ∧
    decodeThread 0x000014041001B89C40000000 = .ok (.rnsr ⟨k0, g0, .v 16, false, .v 6, .zero, .zero, .i8, .i8, .rne, false, 0x0⟩) ∧
    decodeThread 0x200014061403389C40000000 = .ok (.rnschk ⟨⟨4, 0, false, false⟩, g0, .v 20, false, .v 12, .zero, .zero, .i8, .i8, .rne, false, 0x0⟩) := by decide

/-- Class 0xb (control words): brx, callx, ret, exit, yield, tret, lbrk, prio, trap, svc. -/
theorem test_decode_control :
    decodeThread 0x38001601C400B89C40000000 = .ok (.brx ⟨k7, g0, .zero, false, .v 2, .zero, .zero, .i8, .i8, .rne, false, 0x0⟩) ∧
    decodeThread 0x38001603C461389C40000000 = .ok (.callx ⟨k7, g0, .zero, false, .s 4, .zero, .zero, .i8, .i8, .rne, false, 0x0⟩) ∧
    decodeThread 0x38001605C471389C48800000 = .ok (.ret ⟨k7, ⟨true, 1⟩, .zero, false, .zero, .zero, .zero, .i8, .i8, .rne, false, 0x0⟩) ∧
    decodeThread 0x38001607C471389C40000000 = .ok (.exit ⟨k7, g0, .zero, false, .zero, .zero, .zero, .i8, .i8, .rne, false, 0x0⟩) ∧
    decodeThread 0x38001609C471389C40000000 = .ok (.yield ⟨k7, g0, .zero, false, .zero, .zero, .zero, .i8, .i8, .rne, false, 0x0⟩) ∧
    decodeThread 0x3800160DC471389C40000000 = .ok (.tret ⟨k7, g0, .zero, false, .zero, .zero, .zero, .i8, .i8, .rne, false, 0x0⟩) ∧
    decodeThread 0x38001611C471389C40000002 = .ok (.lbrk ⟨k7, g0, .zero, false, .zero, .zero, .zero, .i8, .i8, .rne, false, 0x2⟩) ∧
    decodeThread 0x38001613C400B89C40000000 = .ok (.prio ⟨k7, g0, .zero, false, .v 2, .zero, .zero, .i8, .i8, .rne, false, 0x0⟩) ∧
    decodeThread 0x7800160BC47100000000004D = .ok (.trap ⟨k7, g0, .zero, false, .zero, 0x0, 0x4d⟩) ∧
    decodeThread 0x7800160FC471000012345678 = .ok (.svc ⟨k7, g0, .zero, false, .zero, 0x0, 0x12345678⟩) := by decide

/-- The words of a stream (R425). -/
theorem test_decode_stream :
    decodeStream 0x400012000201400100050400 = .ok (.mmad ⟨k0, g0, .v 2, false, .v 5, 0x1, 0x50400⟩) ∧
    decodeStream 0x400012000000C00200000438 = .ok (.mmad ⟨k0, g0, .v 0, false, .v 3, 0x2, 0x438⟩) ∧
    decodeStream 0x40001209C47100000003FFFF = .ok (.mjmp ⟨k0, g0, .zero, false, .zero, 0x0, 0x3ffff⟩) ∧
    decodeStream 0x00001203C460F89C40000007 = .ok (.mzero ⟨k0, g0, .zero, false, .s 3, .zero, .zero, .i8, .i8, .rne, false, 0x7⟩) ∧
    decodeStream 0x00001203C471389C40000400 = .ok (.mzeroAuto ⟨k0, g0, .zero, false, .zero, .zero, .zero, .i8, .i8, .rne, false, 0x400⟩) ∧
    decodeStream 0x00001203C471389C4000081C = .ok (.mzeroRns ⟨k0, g0, .zero, false, .zero, .zero, .zero, .i8, .i8, .rne, false, 0x81c⟩) ∧
    decodeStream 0x00001205C471389C4000001F = .ok (.mbarArv ⟨k0, g0, .zero, false, .zero, .zero, .zero, .i8, .i8, .rne, false, 0x1f⟩) ∧
    decodeStream 0x00001205C471389C40000103 = .ok (.mbarWt ⟨k0, g0, .zero, false, .zero, .zero, .zero, .i8, .i8, .rne, false, 0x103⟩) ∧
    decodeStream 0x00001205C471389C40000204 = .ok (.mbarSync ⟨k0, g0, .zero, false, .zero, .zero, .zero, .i8, .i8, .rne, false, 0x204⟩) ∧
    decodeStream 0x00001207C471389C40000000 = .ok (.mend ⟨k0, g0, .zero, false, .zero, .zero, .zero, .i8, .i8, .rne, false, 0x0⟩) := by decide
/-- Form P (R337): the word of R409's example, and word 7 of R499's program. -/
theorem test_decode_pair :
    decodeThread 0xB800008100100C0204804070 =
      .ok (.pair k7 ⟨.fmac, .v 8, false, .v 2, .v 3, 0⟩ ⟨.fmac, .v 9, false, .v 2, .v 7, 0⟩) ∧
    decodeThread 0xB80002004016180802009860 =
      .ok (.pair k7 ⟨.add, .v 2, false, .v 2, .s 6, 0⟩ ⟨.add, .v 4, false, .v 4, .s 6, 0⟩) := by decide

/-- Form C (R345): the words that the examples of R345, R382 and R413 spell out; BRA and CALL by their fields. -/
theorem test_decode_control_form :
    decodeThread 0xF8000CC20004840400000000 = .ok (.loop ⟨k7, 0, .s 4, 9, 2, 0, 1⟩) ∧
    decodeThread 0xF80008201497FD8006400002 =
      .ok (.brm k7 [(⟨false, 1⟩, 20), (⟨true, 2⟩, 0x1FF6), (⟨false, 0⟩, 100)]) ∧
    decodeThread 0xF8001240AC00000000000000 = .ok (.join ⟨k7, true, 2, .v 10, .s 0⟩) ∧
    decodeThread (0b11#2 ++ 7#3 ++ 0#7 ++ 0#2 ++ 0#5 ++ 0#3 ++ 0b10011#5 ++ 0xFFFFFE#24 ++ 0#45 : BitVec 96) =
      .ok (.bra k7 ⟨true, 3⟩ 0xFFFFFE) ∧
    decodeThread (0b11#2 ++ 7#3 ++ 0#7 ++ 0#2 ++ 0#5 ++ 1#3 ++ 0b00001#5 ++ 0x000123#24 ++ 0#45 : BitVec 96) =
      .ok (.call k7 ⟨false, 1⟩ 0x123) := by decide

/-- R344: the all-zero word, the all-ones word, a reserved control bit, an unlisted pair operation, a guard bit in a
word that leaves it unassigned. -/
theorem test_decode_refusals :
    decodeThread 0 = .error .illegalEncoding ∧ decodeThread 0xFFFFFFFFFFFFFFFFFFFFFFFF = .error .illegalOpcode ∧
    decodeThread 0x38002211C471389C40000000 = .error .illegalEncoding ∧
    decodeThread (0b10#2 ++ 7#3 ++ 0#7 ++ 0#2 ++ 0#5 ++ 0x05#7 ++ 8#9 ++ 0#1 ++ 2#9 ++ 3#9 ++ 0#3 ++ 0x02#7 ++ 9#9 ++ 0#1 ++ 2#9 ++
      7#9 ++ 0#3 ++ 0#1 : BitVec 96) = .error .illegalPair ∧
    decodeThread 0xF8000CC20004840400000001 = .error .illegalEncoding ∧
    decodeStream 0x38000211C471389C40000000 = .error .illegalOpcode := by decide

/-! ## Integer words: the examples of the entries, else hand calculation -/

theorem test_abs : val (.abs (F (.v 3) (.v 1) .zero .zero .i32)) [(1, 0x80000000)] 3 = 0x80000000 ∧
    val (.abs { F (.v 3) (.v 1) .zero .zero .i32 with sat := true }) [(1, 0x80000000)] 3 = 0x7FFFFFFF := by decide
theorem test_add_wraps : val (.add (F (.v 3) (.v 1) (.v 2) .zero .i32)) [(1, 5), (2, 0xFFFFFFFE)] 3 = 3 := by decide
theorem test_addImm : val (.addImm (I (.v 2) (.v 4) 0x060 0xFFFFFFFF)) [(4, 1), (5, 7)] 3 = 7 ∧
    val (.addImm (I (.v 2) (.v 4) 0x060 0xFFFFFFFF)) [(4, 1), (5, 7)] 2 = 0 := by decide
theorem test_and : val (.and (F (.v 3) (.v 1) (.v 2) .zero .n32)) [(1, 0xC), (2, 0xA)] 3 = 8 := by decide
theorem test_andImm : val (.andImm (I (.v 3) (.v 1) 0x0C0 0xA)) [(1, 0xC)] 3 = 8 := by decide
theorem test_bfi : val (.bfi (F (.v 3) (.v 1) (.v 2) (.v 4) .n32)) [(1, 0xFFFFFFFF), (2, 5), (4, 0x0304)] 3 = 0xFFFFFFDF := by
  decide
theorem test_bfx : val (.bfx (F (.v 3) (.v 1) .zero (.v 4) .i32)) [(1, 0xD0), (4, 0x0404)] 3 = 0xFFFFFFFD ∧
    val (.bfx (F (.v 3) (.v 1) .zero (.v 4) .n32)) [(1, 0xD0), (4, 0x0404)] 3 = 0xD := by decide
theorem test_brev : val (.brev (F (.v 3) (.v 1) .zero .zero .n32)) [(1, 1)] 3 = 0x80000000 := by decide
theorem test_clz : val (.clz (F (.v 3) (.v 4) .zero .zero .n64)) [(4, 0x10000)] 3 = 47 := by decide
theorem test_cmp : (th (run (.cmp (F .zero (.v 1) (.v 2) .zero .i32 0x403)) (one .gen [(1, 0xFFFFFFFF), (2, 1)]))).pred 3 = true ∧
    (th (run (.cmp (F .zero (.v 1) (.v 2) .zero .n32 0x403)) (one .gen [(1, 0xFFFFFFFF), (2, 1)]))).pred 3 = false := by
  decide
theorem test_lea : val (.lea (F (.v 6) (.v 4) (.v 2) (.v 1) .i32)) [(1, 4), (2, 0xFFFFFFFD), (5, 0x10)] 6 = 0xFFFFFFD0 ∧
    val (.lea (F (.v 6) (.v 4) (.v 2) (.v 1) .i32)) [(1, 4), (2, 0xFFFFFFFD), (5, 0x10)] 7 = 0xF := by decide
theorem test_lea_natural : val (.lea (F (.v 6) (.v 4) (.v 2) (.v 1) .n32)) [(1, 4), (2, 0xFFFFFFFD), (5, 0x10)] 7 = 0x1F := by
  decide
theorem test_mad : val (.mad (F (.v 3) (.v 3) (.v 2) (.v 4) .n32)) [(2, 7), (3, 6), (4, 1)] 3 = 43 := by decide
theorem test_max : val (.max (F (.v 3) (.v 1) (.v 2) .zero .i32)) [(1, 0xFFFFFFFF), (2, 1)] 3 = 1 := by decide
theorem test_maxImm : val (.maxImm (I (.v 3) (.v 1) 0x0C0 1)) [(1, 0xFFFFFFFF)] 3 = 0xFFFFFFFF := by decide
theorem test_min : val (.min (F (.v 3) (.v 1) (.v 2) .zero .i32)) [(1, 0xFFFFFFFF), (2, 1)] 3 = 0xFFFFFFFF := by decide
theorem test_minImm : val (.minImm (I (.v 3) (.v 1) 0x0C0 1)) [(1, 0xFFFFFFFF)] 3 = 1 := by decide
theorem test_mul : val (.mul (F (.v 3) (.v 1) (.v 2) .zero .n32 0x100)) [(1, 0xFFFFFFFF), (2, 0xFFFFFFFF)] 3 = 0xFFFFFFFE ∧
    val (.mul (F (.v 3) (.v 1) (.v 2) .zero .i32 0x100)) [(1, 0xFFFFFFFF), (2, 0xFFFFFFFF)] 3 = 0 := by decide
theorem test_mul_sat : val (.mul { F (.v 3) (.v 1) (.v 1) .zero .i32 with sat := true }) [(1, 0x10000)] 3 = 0x7FFFFFFF := by
  decide
theorem test_mulImm : val (.mulImm (I (.v 3) (.v 1) 0x0C0 0xFFFFFFFF)) [(1, 0xFFFFFFFF)] 3 = 1 := by decide
theorem test_not : val (.not (F (.v 3) (.v 1) .zero .zero .n32)) [(1, 0xFFFFFFFE)] 3 = 1 := by decide
theorem test_or : val (.or (F (.v 3) (.v 1) (.v 2) .zero .n32)) [(1, 0xC), (2, 0xA)] 3 = 0xE := by decide
theorem test_orImm : val (.orImm (I (.v 3) (.v 1) 0x0C0 0xA)) [(1, 0xC)] 3 = 0xE := by decide
theorem test_popc : val (.popc (F (.v 3) (.v 4) .zero .zero .n64)) [(4, 0xFF), (5, 0x80000000)] 3 = 9 := by decide
theorem test_sel : val (.sel (F (.v 3) (.v 1) (.v 2) .zero .n32 0)) [(1, 5), (2, 6)] 3 = 5 ∧
    val (.sel (F (.v 3) (.v 1) (.v 2) .zero .n32 1)) [(1, 5), (2, 6)] 3 = 6 := by decide
theorem test_sha : val (.sha (F (.v 3) (.v 1) (.v 2) .zero .i32)) [(1, 0xFFFFFF80), (2, 4)] 3 = 0xFFFFFFF8 ∧
    val (.sha (F (.v 3) (.v 1) (.v 2) .zero .i32)) [(1, 0xFFFFFF80), (2, 40)] 3 = 0xFFFFFFFF := by decide
theorem test_shaImm : val (.shaImm (I (.v 3) (.v 1) 0x040 4)) [(1, 0xFFFFFF80)] 3 = 0xFFFFFFF8 := by decide
theorem test_shl : val (.shl (F (.v 3) (.v 1) (.v 2) .zero .n32)) [(1, 3), (2, 31)] 3 = 0x80000000 := by decide
theorem test_shlImm : val (.shlImm (I (.v 3) (.v 1) 0x0C0 32)) [(1, 3)] 3 = 0 := by decide
theorem test_shr : val (.shr (F (.v 3) (.v 1) (.v 2) .zero .n32)) [(1, 0xFFFFFF80), (2, 40)] 3 = 0 := by decide
theorem test_shrImm : val (.shrImm (I (.v 3) (.v 1) 0x0C0 31)) [(1, 0x80000000)] 3 = 1 := by decide
theorem test_sub : val (.sub { F (.v 3) (.v 1) (.v 2) .zero .n32 with sat := true }) [(1, 3), (2, 5)] 3 = 0 ∧
    val (.sub (F (.v 3) (.v 1) (.v 2) .zero .n32)) [(1, 3), (2, 5)] 3 = 0xFFFFFFFE := by decide
theorem test_subImm : val (.subImm (I (.v 3) (.v 1) 0x050 1)) [(1, 0x80000000)] 3 = 0x80000000 := by decide
theorem test_xor : val (.xor (F (.v 3) (.v 1) (.v 2) .zero .n32)) [(1, 0xC), (2, 0xA)] 3 = 6 := by decide
theorem test_xorImm : val (.xorImm (I (.v 3) (.v 1) 0x0C0 0xA)) [(1, 0xC)] 3 = 6 := by decide

/-! ## Moves, pairs and system registers -/

/-- R394's example in slots 64, 65 and 130: slot 64's guard is false. -/
theorem test_elect :
    let on := fun q p => { thr q .gen [] with preds := p }
    let s := run (.elect { F (.v 3) .zero .zero .zero .i8 5 with g := ⟨false, 1⟩ })
      (blk [on 64 0, on 65 2, on 130 2] [64, 65, 130])
    [64, 65, 130].map (fun q => ((SMap.get (s.thread 0 q).regs 3).toNat, (s.thread 0 q).pred 5)) =
      [(0, false), (65, true), (65, false)] := by decide
theorem test_mov : val (.mov (F (.v 6) (.v 8) .zero .zero .n64)) [(8, 1), (9, 2)] 7 = 2 := by decide
theorem test_movi : val (.movi (I (.v 4) .zero 0 0x3FC00000)) [] 4 = 0x3FC00000 := by decide
/-- R439's example: window ROT 16, 8 with RRB 7, and a computed name of 17, which is physical v16; the destination v20
is physical v19. -/
theorem test_movx :
    let t := { thr 0 .gen [(3, 1), (16, 99), (17, 5)] with loops := [⟨9, 1, 50, false, 0, 2, 1, 7⟩] }
    reg (run (.movx (F (.v 20) (.v 16) (.v 3) .zero .i8)) (blk [t] [0])) 19 = 99 := by decide
/-- R440's example: with `.regs 45` the computed name 46 raises REG_RANGE. -/
theorem test_movxw :
    let s := one .gen [(3, 7), (8, 36)]
    let t := { s with blocks := s.blocks.map (fun b => { b with roles := [⟨.gen, 0, 63, 48, 45, 0, 0⟩], tvec := 7 }) }
    (th (run (.movxw (F (.v 10) (.v 3) (.v 8) .zero .i8)) t)).tcause.toNat % 256 = cRegRange ∧
    reg (run (.movxw (F (.v 10) (.v 3) (.v 8) .zero .i8)) s) 46 = 7 := by decide
theorem test_nop : (th (run (.nop (F .zero .zero .zero .zero .i8)) (one .gen [(1, 5)]))).pc = 1 ∧
    (th (run (.nop (F .zero .zero .zero .zero .i8)) (one .gen [(1, 5)]))).regs = [(1, 5)] := by decide
/-- LUT bit 2·p(j) + p(i): with p1 true and p2 false. -/
theorem test_plop :
    let t := { thr 0 .gen [] with preds := 2 }
    (th (run (.plop { F .zero .zero .zero .zero .i8 0x312 with ty2 := .i32 }) (blk [t] [0]))).pred 3 =
      (Ty.i32.code.getLsbD 2) := by decide
/-- COREPOS of the core at (15, 9), core 231 (R12, R476). -/
theorem test_srd :
    let s := { State.reset with
      blocks := [{ Block.blank 231 with rect := 1, roles := [⟨.gen, 0, 63, 48, 384, 0, 0⟩] }]
      threads := [{ Thread.blank 231 0 with live := true }], actor := .party 231 [0] }
    ((run (.srd (T (.v 6) .zero .zero .zero .i8 0x040)) s).thread 231 0).pend.map (fun p => p.dst) =
      [[(.v 6, 0x000F9CC9)]] := by decide
/-- SWR TVEC: seen by the block's later reads (R497); LBASE0 is read-only and raises PRIV. -/
theorem test_swr :
    let s := run (.swr (F .zero (.v 4) .zero .zero .i8 4)) (one .gen [(4, 0x100), (5, 2)])
    (s.block 0).tvecAt (s.clock + 4) 9 = 0x200000100#64 ∧ (s.block 0).tvecAt s.clock 9 = 0 := by decide
theorem test_swr_read_only :
    let s := one .gen [(4, 1)]
    let t := { s with blocks := s.blocks.map (fun b => { b with tvec := 7 }) }
    (th (run (.swr { F .zero (.v 4) .zero .zero .i8 0x014 with g := ⟨false, 5⟩ }) t)).tcause.toNat = cPriv := by decide
/-- R337: both halves read before either writes; FMAC of 2 × 3 + 1. -/
theorem test_pair :
    let s := run (.pair k7 ⟨.fmac, .v 8, false, .v 2, .v 3, 0⟩ ⟨.add, .v 9, false, .v 10, .v 7, 0⟩)
      (one .gen [(2, 0x40000000), (3, 0x40400000), (7, 1), (8, 0x3F800000), (10, 4)])
    reg s 8 = 0x40E00000 ∧ reg s 9 = 5 := by decide

/-! ## Floating point and special functions -/

/-- R401: 1.0 + 2^−24 is 1.0 with NX under RNE and 0x3F800001 with NX under RU. -/
theorem test_fadd :
    let s := run (.fadd { F (.v 3) (.v 1) (.v 2) .zero .f32 with rm := .ru }) (one .gen [(1, 0x3F800000), (2, 0x33800000)])
    reg s 3 = 0x3F800001 ∧ (th s).tst = 1 := by decide
theorem test_faddImm : val (.faddImm (I (.v 3) (.v 1) 0x100 0x33800000)) [(1, 0x3F800000)] 3 = 0x3F800000 := by decide
/-- −0 is one of FCLASS's ten classes: exactly one bit. -/
theorem test_fclass : val (.fclass (F (.v 3) (.v 1) .zero .zero .f32)) [(1, 0x80000000)] 3 ≠
    val (.fclass (F (.v 3) (.v 1) .zero .zero .f32)) [(1, 0)] 3 := by decide
/-- An unordered comparison: NaN < 1.0 is false, NaN ≠ 1.0 is true. -/
theorem test_fcmp : (th (run (.fcmp (F .zero (.v 1) (.v 2) .zero .f32 0x403)) (one .gen [(1, 0x7FC00000), (2, 0x3F800000)]))).pred 3 = false ∧
    (th (run (.fcmp (F .zero (.v 1) (.v 2) .zero .f32 0x203)) (one .gen [(1, 0x7FC00000), (2, 0x3F800000)]))).pred 3 = true := by
  decide
/-- R121's example under RZ: 470.0 to E4M3 is 448 with OF and NX. -/
theorem test_fcvt_overflow_flag :
    let s := run (.fcvt { F (.v 3) (.v 1) .zero .zero .e4m3 with ty2 := .f32, rm := .rz }) (one .gen [(1, 0x43EB0000)])
    reg s 3 = 0x7E ∧ (th s).tst = 5 := by decide
/-- R403's examples: 470.0 to E4M3, −200.7 to I8 under RZ. -/
theorem test_fcvt : val (.fcvt { F (.v 3) (.v 1) .zero .zero .e4m3 with ty2 := .f32 }) [(1, 0x43EB0000)] 3 = 0x7F ∧
    val (.fcvt { F (.v 3) (.v 1) .zero .zero .e4m3 with ty2 := .f32, sat := true }) [(1, 0x43EB0000)] 3 = 0x7E ∧
    val (.fcvt { F (.v 3) (.v 1) .zero .zero .i8 with ty2 := .f32, rm := .rz }) [(1, 0xC348B333)] 3 = 0xFFFFFF80 := by decide
theorem test_fcvt_integers : val (.fcvt { F (.v 3) (.v 1) .zero .zero .n8 with ty2 := .i32, sat := true }) [(1, 300)] 3 = 0xFF ∧
    val (.fcvt { F (.v 3) (.v 1) .zero .zero .n32 with ty2 := .i32, sat := true }) [(1, 0xFFFFFFFF)] 3 = 0 ∧
    val (.fcvt { F (.v 3) (.v 1) .zero .zero .n32 with ty2 := .i32 }) [(1, 0xFFFFFFFF)] 3 = 0xFFFFFFFF ∧
    val (.fcvt { F (.v 3) (.v 1) .zero .zero .i32 with ty2 := .n32, sat := true }) [(1, 0xFFFFFFFF)] 3 = 0x7FFFFFFF := by
  decide
/-- 1/3 in FP32 (R391's RCP value, as a quotient). -/
theorem test_fdiv : due (.fdiv (T (.v 3) (.v 1) (.v 2) .zero .f32)) [(1, 0x3F800000), (2, 0x40400000)] =
    [(.v 3, 0x3EAAAAAB)] := by decide
/-- 1.5 × 2 + 1 = 4. -/
theorem test_ffma : val (.ffma (F (.v 3) (.v 1) (.v 2) (.v 4) .f32)) [(1, 0x3FC00000), (2, 0x40000000), (4, 0x3F800000)] 3 =
    0x40800000 := by decide
/-- −0 lies below +0. -/
theorem test_fmax : val (.fmax (F (.v 3) (.v 1) (.v 2) .zero .f32)) [(1, 0x80000000)] 3 = 0 := by decide
theorem test_fmaxImm : val (.fmaxImm (I (.v 3) (.v 1) 0x100 0x40000000)) [(1, 0x3F800000)] 3 = 0x40000000 := by decide
theorem test_fmin : val (.fmin (F (.v 3) (.v 1) (.v 2) .zero .f32)) [(1, 0x80000000)] 3 = 0x80000000 := by decide
theorem test_fminImm : val (.fminImm (I (.v 3) (.v 1) 0x100 0x40000000)) [(1, 0x3F800000)] 3 = 0x3F800000 := by decide
theorem test_fmul : val (.fmul (F (.v 3) (.v 1) (.v 2) .zero .f32)) [(1, 0x3FC00000), (2, 0xC0000000)] 3 = 0xC0400000 := by
  decide
theorem test_fmulImm : val (.fmulImm (I (.v 3) (.v 1) 0x100 0xC0000000)) [(1, 0x3FC00000)] 3 = 0xC0400000 := by decide
/-- R412's examples. -/
theorem test_frnd : val (.frnd (F (.v 3) (.v 1) .zero .zero .f32)) [(1, 0xBF000000)] 3 = 0x80000000 ∧
    val (.frnd { F (.v 3) (.v 1) .zero .zero .f32 with rm := .rd }) [(1, 0xBF000000)] 3 = 0xBF800000 ∧
    val (.frnd (F (.v 3) (.v 1) .zero .zero .f32)) [(1, 0x40200000)] 3 = 0x40000000 := by decide
theorem test_rcp : due (.rcp (T (.v 3) (.v 1) .zero .zero .f32)) [(1, 0x40400000)] = [(.v 3, 0x3EAAAAAB)] ∧
    due (.rcp { T (.v 3) (.v 1) .zero .zero .f32 with rm := .rz }) [(1, 0x40400000)] = [(.v 3, 0x3EAAAAAA)] := by decide
/-- 1/√4 is exact. -/
theorem test_rsq : due (.rsq (T (.v 3) (.v 1) .zero .zero .f32)) [(1, 0x40800000)] = [(.v 3, 0x3F000000)] := by decide +kernel
theorem test_sqrt : due (.sqrt (T (.v 3) (.v 1) .zero .zero .f32)) [(1, 0x40000000)] = [(.v 3, 0x3FB504F3)] ∧
    due (.sqrt { T (.v 3) (.v 1) .zero .zero .f32 with rm := .ru }) [(1, 0x40000000)] = [(.v 3, 0x3FB504F4)] := by decide +kernel
/-- EX2 of −1.0 (R393) and of 0.5 (R129). -/
theorem test_ex2 : due (.ex2 (T (.v 3) (.v 1) .zero .zero .f32)) [(1, 0x3F000000)] = [(.v 3, 0x3FB504F4)] ∧
    due (.ex2 (T (.v 3) (.v 1) .zero .zero .f32)) [(1, 0xBF800000)] = [(.v 3, 0x3F000000)] := by decide +kernel
theorem test_lg2 : due (.lg2 (T (.v 3) (.v 1) .zero .zero .f32)) [(1, 0x41000000)] = [(.v 3, 0x40400000)] ∧
    due (.lg2 (T (.v 3) (.v 1) .zero .zero .f32)) [(1, 0x80000000)] = [(.v 3, 0xFF800000)] := by decide +kernel
theorem test_sin : due (.sin (T (.v 3) (.v 1) .zero .zero .f32)) [(1, 0x80000000)] = [(.v 3, 0x80000000)] := by decide +kernel
theorem test_cos : due (.cos (T (.v 3) (.v 1) .zero .zero .f32)) [(1, 0x80000000)] = [(.v 3, 0x3F800000)] := by decide +kernel
/-- TANH of 10.0 (R475). -/
theorem test_tanh : due (.tanh (T (.v 3) (.v 1) .zero .zero .f32)) [(1, 0x41200000)] = [(.v 3, 0x3F800000)] := by decide +kernel

/-! ## Cross-lane words, one party of a row -/

/-- A block with uniform registers. -/
def withUni (s : State) (u : SMap 32) : State := { s with blocks := s.blocks.map (fun b => { b with uni := u }) }

/-- What a slot's newest result holds: its first register's value, if any, and its predicate. -/
def got (s : State) (q : Nat) : Option Nat × Option (Nat × Bool) :=
  match (s.thread 0 q).pend.getLast? with
  | some p => (p.dst.head?.map (fun x => x.2.toNat), p.pred)
  | none => (none, none)

/-- Lanes 0 to n − 1 of a row, each with one value in v5 and one in v6. -/
def rowOf' (row : Nat) (vs : List (Nat × Word × Word)) (u : SMap 32) : State :=
  withUni (blk (vs.map (fun x => thr (32 * row + x.1) .gen [(5, x.2.1), (6, x.2.2)])) (vs.map (fun x => 32 * row + x.1))) u

/-- R473's example: row 1, mask 0xFF, lane 6 absent. -/
theorem test_shfl :
    let s := run (.shfl (T (.v 3) (.v 5) (.s 1) (.s 2) .n32 0x481))
      (rowOf' 1 ([0, 1, 2, 3, 4, 5, 7].map (fun k => (k, BitVec.ofNat 32 (10 + k), 0))) [(1, 1), (2, 0xFF)])
    [0, 1, 2, 3, 4, 5, 7].map (fun k => got s (32 + k)) =
      [(some 11, some (1, true)), (some 12, some (1, true)), (some 13, some (1, true)), (some 13, some (1, false)),
       (some 15, some (1, true)), (some 15, some (1, false)), (some 17, some (1, false))] := by decide +kernel
/-- R474's example on the same row: the ballot 0xBF, and p2 set. -/
theorem test_vote :
    got (run (.vote (T (.v 3) (.v 5) .zero (.s 2) .i8 0x202))
      (rowOf' 1 ([0, 1, 2, 3, 4, 5, 7].map (fun k => (k, BitVec.ofNat 32 (10 + k), 0))) [(1, 1), (2, 0xFF)])) 39 =
      (some 0xBF, some (2, true)) := by decide +kernel
/-- R457's example. -/
theorem test_pushl :
    let s := run (.pushl (T (.v 3) (.v 5) (.v 6) (.s 2) .n32 0x081))
      (rowOf' 0 [(0, 10, 2), (1, 11, 2), (2, 12, 0), (3, 13, 5)] [(2, 0xF)])
    [0, 1, 2, 3].map (got s) = [(some 12, some (1, false)), (none, some (1, false)), (some 11, some (1, true)),
      (none, some (1, false))] := by decide
/-- Lanes with equal values find one another (R429). -/
theorem test_match :
    let s := run (.matchLanes (T (.v 3) (.v 5) .zero (.s 2) .n32 0x001))
      (rowOf' 0 [(0, 7, 0), (1, 8, 0), (2, 7, 0)] [(2, 7)])
    [0, 1, 2].map (got s) = [(some 5, some (1, true)), (some 2, some (1, false)), (some 5, some (1, true))] := by decide
/-- The sum of the members (R461). -/
theorem test_redl :
    got (run (.redl (T (.v 3) (.v 5) .zero (.s 2) .n32)) (rowOf' 0 [(0, 7, 0), (1, 0xFFFFFFFF, 0), (2, 1, 0)] [(2, 7)])) 1 =
      (some 7, some (0, false)) := by decide
/-- R456's example, its first word: p1 is false in lane 0 alone, and the word routes 2, 3, 1, 0 to lanes 0 to 3. -/
theorem test_projl :
    let s := run (.projl (T .zero (.v 5) .zero (.s 2) .i8 0x041))
      (rowOf' 2 [(0, 3, 0), (1, 3, 0), (2, 1, 0), (3, 0, 0)] [(2, 0xF)])
    [0, 1, 2, 3].map (fun k => (got s (64 + k)).2) = [some (1, false), some (1, true), some (1, true), some (1, true)] ∧
    [2, 3, 1, 0, 4, 31].map (projDest (SMap.get (s.block 0).proj 17)) = [0, 1, 2, 3, 4, 31] := by decide +kernel
/-- Its second word, under the identity projection: each lane its own, all predicates set. -/
theorem test_proj :
    let s := run (.proj (T (.v 3) (.v 5) .zero (.s 2) .n32 0x042)) (rowOf' 2 [(0, 10, 0), (1, 11, 0)] [(2, 3)])
    [0, 1].map (fun k => got s (64 + k)) = [(some 10, some (2, true)), (some 11, some (2, true))] := by decide

/-! ## Control words -/

/-- One thread at a word with some predicates. -/
def at' (pc : DWord) (preds : BitVec 16) (loops : List LoopLevel) (regs : SMap 32) : State :=
  blk [{ thr 0 .gen regs with pc := pc, preds := preds, loops := loops }] [0]

/-- The levels of R97's example: LOOP 1 over 201–230, LOOP 2 over 211–220. -/
def two : List LoopLevel := [⟨9, 201, 230, false, 0, 0, 0, 0⟩, ⟨5, 211, 220, false, 0, 4, 2, 0⟩]

/-- R97's example: BRA at word 215 to 228 keeps level 1; to 240 pops both. -/
theorem test_bra :
    ((th (run (.bra k7 g0 13) (at' 215 1 two []))).pc, (th (run (.bra k7 g0 13) (at' 215 1 two []))).loops.length) = (228, 1) ∧
    (th (run (.bra k7 g0 25) (at' 215 1 two []))).loops = [] ∧
    (th (run (.bra k7 ⟨false, 1⟩ 25) (at' 215 1 two []))).pc = 216 := by decide
/-- R382's example. -/
theorem test_brm :
    [1, 5, 3, 7].map (fun p => (th (run (.brm k7 [(⟨false, 1⟩, 20), (⟨true, 2⟩, 0x1FF6), (⟨false, 0⟩, 100)]) (at' 100 p [] []))).pc) =
      [90, 200, 120, 120] := by decide
theorem test_brx : (th (run (.brx (F .zero (.v 2) .zero .zero .i8)) (at' 5 1 [] [(2, 77), (3, 1)]))).pc = 0x10000004D := by
  decide
/-- R97's example: CALL at word 212 suspends both levels; the entry records LDEP 2 and word 213. -/
theorem test_call :
    let t := th (run (.call k7 g0 288) (at' 212 1 two []))
    t.pc = 500 ∧ t.loops.map (·.susp) = [true, true] ∧ t.stack.map (fun e => (bits e.toNat 59 57, bits e.toNat 56 0)) =
      [(2, 213)] := by decide
theorem test_callx : (th (run (.callx (F .zero (.v 2) .zero .zero .i8)) (at' 5 1 [] [(2, 77)]))).stack = [6] := by decide
/-- The matching RET restores the levels; one inside a third level raises LOOP_CALL (R100). -/
theorem test_ret :
    let e : DWord := BitVec.ofNat 64 (213 + 2 ^ 58)
    let t := { thr 0 .gen [] with pc := 503, loops := two.map (fun l => { l with susp := true }), stack := [e] }
    let s := blk [t] [0]
    (th (run (.ret (F .zero .zero .zero .zero .i8)) s)).loops = two ∧
    (th (run (.ret (F .zero .zero .zero .zero .i8)) s)).pc = 213 ∧
    (let u := { blk [{ t with loops := t.loops ++ [⟨3, 501, 505, false, 0, 0, 0, 0⟩] }] [0] with
        blocks := [{ Block.blank 0 with tvec := 9, roles := [⟨.gen, 0, 63, 48, 384, 0, 0⟩] }] }
     (th (run (.ret (F .zero .zero .zero .zero .i8)) u)).tcause.toNat = cLoopCall) := by decide
theorem test_exit : (th (run (.exit (F .zero .zero .zero .zero .i8)) (one .gen []))).live = false := by decide
/-- R93's example: with a count of 3 and two stages T = 4, RRB 0, p8 set and p9 clear. -/
theorem test_loop :
    let t := th (run (.loop ⟨k7, 0, .s 4, 9, 2, 0, 1⟩) (withUni (at' 40 0xFF01 [] []) [(4, 3)]))
    t.loops = [⟨4, 41, 49, false, 1, 2, 1, 0⟩] ∧ t.pc = 41 ∧ t.pred 8 = true ∧ t.pred 9 = false := by decide
/-- R92: a count of 0 jumps past the body. -/
theorem test_loop_none : (th (run (.loop ⟨k7, 0, .s 4, 9, 63, 0, 0⟩) (at' 40 1 [] []))).pc = 50 := by decide
/-- LBRK at word 215 of R97's example. -/
theorem test_lbrk :
    [0, 1].map (fun k => ((th (run (.lbrk (F .zero .zero .zero .zero .i8 k)) (at' 215 1 two []))).pc.toNat,
      (th (run (.lbrk (F .zero .zero .zero .zero .i8 k)) (at' 215 1 two []))).loops.length)) = [(231, 0), (221, 1)] := by decide
/-- The third back edge of R93's table: LCNT0 2 → 1, RRB 6 → 5, p8 clear, p9 set. -/
theorem test_end_word :
    let t := th (run (.nop (F .zero .zero .zero .zero .i8)) (at' 49 0x301 [⟨2, 41, 49, false, 1, 2, 1, 6⟩] []))
    t.pc = 41 ∧ t.loops = [⟨1, 41, 49, false, 1, 2, 1, 5⟩] ∧ t.pred 8 = false ∧ t.pred 9 = true := by decide
/-- R413's example: mask 0b1001 of a thread in lane 3. -/
theorem test_join :
    (run (.join ⟨k7, true, 2, .v 10, .s 0⟩) (withUni (blk [thr 227 .gen [(10, 1)]] [227]) [(0, 50)])).threads.map (·.wait) =
      [.join 9 50 2 true] := by decide
/-- R41's example: three lanes at clock 150, the last to arrive in that clock; at 151 with one missing the others time
out. -/
theorem test_joinRelease :
    let w := fun q x => { thr (160 + q) .gen [] with wait := .join 7 x 1 false }
    let s := { blk [w 0 150, w 1 150, w 2 500] [] with clock := 150 }
    (run (.joinRelease 0 160) s).threads.map (fun t => (t.pc.toNat, t.pred 1, t.wait)) =
      [(1, true, .none), (1, true, .none), (1, true, .none)] := by decide
theorem test_joinTimeout :
    let w := fun q x => { thr (160 + q) .gen [] with wait := .join 7 x 1 false }
    let s := { blk [w 0 150, w 1 150, thr 162 .gen []] [] with clock := 151 }
    (run (.joinTimeout 0 160) s).threads.map (fun t => (t.pc.toNat, t.pred 1)) = [(1, false), (0, false), (0, false)] := by
  decide
theorem test_prio : ((run (.prio (F .zero (.v 2) .zero .zero .i8)) (one .gen [(2, 0x13)])).block 0).prioPend.map (fun p => p.2.2) =
    [3] := by decide
theorem test_yield : (th (run (.yield (F .zero .zero .zero .zero .i8)) (one .gen []))).yld = true := by decide

/-- A thread with a handler at word 7. -/
def handled (t : Thread) : State :=
  { blk [t] [0] with blocks := [{ Block.blank 0 with rect := 1, tvec := 7, roles := [⟨.gen, 0, 63, 48, 384, 0, 0⟩] }] }

/-- R269, R101: SWTRAP enters the handler and saves the word after it. -/
theorem test_trap :
    let t := th (run (.trap (I .zero .zero 0 77)) (handled { thr 0 .gen [] with pc := 20, loops := two }))
    t.pc = 7 ∧ t.tpc = 21 ∧ t.tcause = 0x20#32 ∧ t.inTrap = true ∧ t.shadow = two ∧ t.loops = [] := by decide
/-- R93, R488: a TRAP at an end word inside a handler is evaluated before the DOUBLE: the level has gone round once. -/
theorem test_trap_in_handler_at_end_word :
    let t := th (run (.trap (I .zero .zero 0 77))
      (handled { thr 0 .gen [] with pc := 20, tst := 0x100, loops := [⟨3, 15, 20, false, 1, 0, 1, 0⟩] }))
    t.frozen = true ∧ t.tcause.toNat % 256 = 0x22 ∧ t.pc = 20 ∧ t.pred 8 = true ∧
    t.loops = [⟨2, 15, 20, false, 1, 0, 1, 7⟩] := by decide
/-- R489: TRET goes to TPC with the levels of the shadow; outside a handler it raises PRIV. -/
theorem test_tret :
    let t := { thr 0 .gen [] with pc := 9, tpc := 21, tst := 0x103, shadow := two, shadowV := true }
    let u := th (run (.tret (F .zero .zero .zero .zero .i8)) (handled t))
    u.pc = 21 ∧ u.tst = 3 ∧ u.loops = two ∧ u.shadowV = false ∧
    (th (run (.tret (F .zero .zero .zero .zero .i8)) (handled { t with tst := 3 }))).tcause.toNat = cPriv := by decide
/-- R482: a service request suspends the thread with its word, to go on after the SVC. -/
theorem test_svc : (th (run (.svc (I .zero .zero 0 5)) (one .gen []))).susp = .service 1 := by decide

/-! ## Loads, stores and atomics -/

/-- Threads in a block whose context maps its first TiB to tier 0 by one leaf (log entry 1), with some bytes of memory.
-/
def mapped (ts : List Thread) (slots : List Nat) (mem : SMap 8) : State :=
  let s := State.reset.withFetchWord 96 0
  { s with threads := ts, actor := .party 0 slots, mem := mem.foldl (fun m x => SMap.set m x.1 x.2) s.mem }

def mappedOne (regs : SMap 32) (mem : SMap 8) : State := mapped [thr 0 .gen regs] [0] mem

/-- A byte of memory as a home-performed read finds it. -/
def byteAt (s : State) (a : Nat) : Nat := leNat (homeRead s a 1).2.1

/-- LD.B16.SX of 0xFF80 (R416): sign-extended, little-endian. -/
theorem test_ld : owed (run (.ld { I (.v 8) (.v 2) 0x050 2 with ctl := k0 }) (mappedOne [(2, 0x2000)] [(0x2002, 0x80), (0x2003, 0xFF)])) =
    [(.v 8, 0xFFFFFF80)] := by decide +kernel
/-- R113's element 5,000 of an MXFP4 unit: nibble 0b1011 under scale 0x82 is −12.0. -/
theorem test_ld_typed :
    let s := mappedOne [] [(0x9C4, 0x0B), (0xF09C, 0x82), (0x10007, 0x12)]
    owed (run (.ld { I (.v 8) (.v 2) 0x0A0 0x9C4 with ctl := k0 }) s) = [(.v 8, 0xC1400000)] ∧
    ((th (run (.ld { I (.v 8) (.v 2) 0x0A0 0xF000 with ctl := k0 })
      { s with blocks := s.blocks.map (fun b => { b with tvec := 7 }) })).tcause.toNat % 256 = cFormat) := by decide +kernel
theorem test_st :
    let s := run (.st (I (.v 9) (.v 2) 0x080 0x40)) (mappedOne [(2, 0x2000), (9, 0x11223344)] [(0x2044, 0x55)])
    [0x203F, 0x2040, 0x2041, 0x2042, 0x2043, 0x2044].map (byteAt s) = [0, 0x44, 0x33, 0x22, 0x11, 0x55] := by decide +kernel
/-- An X-buffer store and the load that reads it; a displaced byte past the end faults. -/
theorem test_stx :
    let s := run (.stx (I (.v 8) (.v 3) 0x080 0x10)) (one .gen [(3, 0x100), (8, 0xAABBCCDD)])
    (xRead s 0 0x110 4).map (·.toNat) = [0xDD, 0xCC, 0xBB, 0xAA] := by decide
theorem test_ldx :
    let s := one .gen [(3, 0x100)]
    let t := { s with blocks := s.blocks.map (fun b => { b with xbuf := [(0x110, 0x80)] }) }
    owed (run (.ldx { I (.v 8) (.v 3) 0x010 0x10 with ctl := k0 }) t) = [(.v 8, 0xFFFFFF80)] := by decide
theorem test_ldw :
    let s := one .gen [(3, 0x100)]
    let t := { s with blocks := s.blocks.map (fun b => { b with wbuf := [(0x110, 0x80)] }) }
    owed (run (.ldw { I (.v 8) (.v 3) 0x000 0x10 with ctl := k0 }) t) = [(.v 8, 0x80)] := by decide
/-- R487's example, one thread: row 5 of a BF16 tile. -/
theorem test_tld :
    let s := one .feed [(10, 0x4000), (11, 0x0500000A)]
    let t := { s with blocks := s.blocks.map (fun b => { b with xbuf := [(0x4001, 0x3F)] }) }
    let b := (run (.tld (I (.v 3) (.v 10) 0 0)) t).block 0
    (SMap.get b.tileRows (32 * 3 + 5)).toNat = 0x3F00 ∧ SMap.get b.tileFmt 3 = 0x0A := by decide +kernel
/-- R368's example: slots 32 to 35 add 1 to a word that holds 10; the old values rise in slot order. -/
theorem test_atom :
    let s := run (.atom (T (.v 6) (.v 2) (.v 7) .zero .n32)) (mapped ([32, 33, 34, 35].map (fun q => thr q .gen [(2, 0x2000), (7, 1)]))
      [32, 33, 34, 35] [(0x2000, 10)])
    [32, 33, 34, 35].map (fun q => (got s q).1) = [some 10, some 11, some 12, some 13] ∧ byteAt s 0x2000 = 14 := by
  decide +kernel
/-- A failing CAS returns the old value and writes nothing (R386). -/
theorem test_cas :
    let s := run (.cas (T (.v 6) (.v 2) (.v 7) (.v 8) .n32)) (mappedOne [(2, 0x2000), (7, 9), (8, 77)] [(0x2000, 10)])
    owed s = [(.v 6, 10)] ∧ byteAt s 0x2000 = 10 ∧
    byteAt (run (.cas (T (.v 6) (.v 2) (.v 7) (.v 8) .n32)) (mappedOne [(2, 0x2000), (7, 10), (8, 77)] [(0x2000, 10)])) 0x2000 = 77 := by
  decide +kernel
/-- A relaxed RED waits in the L1 and is merged by the read that follows (R224). -/
theorem test_red :
    let s := run (.red (F .zero (.v 2) (.v 7) .zero .n32)) (mappedOne [(2, 0x2000), (7, 5)] [(0x2000, 10)])
    SMap.get s.mem 0x2000 = 10 ∧ byteAt s 0x2000 = 15 ∧ (th s).pend = [] := by decide +kernel
theorem test_atomx :
    let s := one .gen [(13, 3), (14, 0x40)]
    let t := { s with blocks := s.blocks.map (fun b => { b with xbuf := [(0x40, 4)] }) }
    let u := run (.atomx (T (.v 5) (.v 14) (.v 13) .zero .n32)) t
    owed u = [(.v 5, 4)] ∧ xRead u 0 0x40 1 = [7] := by decide
/-- FENCE.SC.PK drains the core's stores to their homes (R225); FENCE.REL.PK leaves them in L1 and the atomic write
after it leaves the record (R220, R226). -/
theorem test_fence :
    let s := run (.st (I (.v 9) (.v 2) 0x080 0)) (mappedOne [(2, 0x2000), (9, 0x44)] [])
    let t := run (.fence (F .zero .zero .zero .zero .i8 0x900)) s
    let u := run (.fence (F .zero .zero .zero .zero .i8 0x500)) s
    SMap.get s.mem 0x2000 = 0 ∧ SMap.get t.mem 0x2000 = 0x44 ∧ (th t).relFence = 4 ∧ (th t).lazyFence = false ∧
    SMap.get u.mem 0x2000 = 0 ∧ (th u).relFence = 4 ∧
    (run (.atom (T (.v 6) (.v 2) (.v 7) .zero .n32)) u).releases.map (fun r => (r.addr, r.core)) = [(0x2000, 0)] ∧
    (run (.atom (T (.v 6) (.v 2) (.v 7) .zero .n32)) s).releases = [] := by decide +kernel
/-- A range acquire writes back what the record's core holds of its range; the record stays for the rest (R225, R229).
-/
theorem test_range_drain :
    let l1 : CoreRec := { State.reset.coreRec 5 with
      sectors := [⟨0x100, 7, 1, 1, 0, none, false⟩, ⟨0x200, 9, 1, 1, 0, none, false⟩] }
    let s := { State.reset with cores := State.reset.cores.filter (fun r => r.core != 5) ++ [l1]
                                releases := [⟨0, 0x2000, 5, none⟩] }
    let t := acquireActions s 0 4 (fun _ => true) (fun k => k == 0x100)
    let u := acquireActions t 0 4 (fun _ => true)
    SMap.get t.mem 0x2000 = 7 ∧ SMap.get t.mem 0x4000 = 0 ∧ t.releases = s.releases ∧
    SMap.get u.mem 0x4000 = 9 ∧ u.releases = [] := by decide +kernel
/-- R330: a word stored in two parts is fetched before or after both, never between them, also where its writer has
begun to store it again; a launch takes what has been released as it stands. -/
theorem test_code_store_in_parts :
    let st := fun (s : State) (a n : Nat) (b : Byte) => l1Store s 0 a 0 (List.replicate n b) (threadWriter 0 5)
    let a := st (mappedOne [] []) 0x2010 8 1
    let b := st a 0x2018 4 1
    let c := st b 0x2010 8 2
    let vs := fun (s : State) => lineVersions (obtainLine s (s.agent 0) 171) (s.agent 0) 0 171
    let word := (List.range 12).map (0x2010 + ·)
    vs a = [0] ∧ vs b = [0, 2] ∧ vs c = [0, 2] ∧
    wordAt (obtainLine c (c.agent 0) 171) 0 word 2 = List.replicate 12 1 ∧
    wordVersion c 3 word 3 = 2 ∧ wordVersion (noteRelease c (threadWriter 0 5)) 4 word 4 = 4 := by decide +kernel
theorem test_setfSt :
    byteAt (run (.setfSt (F .zero (.v 2) (.v 7) (.v 8) .n32 0x500)) (mappedOne [(2, 0x2000), (7, 5)] [(0x2000, 10)])) 0x2000 = 5 := by
  decide +kernel
theorem test_setfAdd :
    byteAt (run (.setfAdd (F .zero (.v 2) (.v 7) (.v 8) .n32 0x504)) (mappedOne [(2, 0x2000), (7, 5)] [(0x2000, 10)])) 0x2000 = 15 := by
  decide +kernel
/-- WAITF.GE holds below its target and goes on at it (R494). -/
theorem test_waitf :
    (th (run (.waitf (F .zero (.v 2) (.v 7) (.v 8) .n32 0x300)) (mappedOne [(2, 0x2000), (7, 11)] [(0x2000, 10)]))).pc = 0 ∧
    (th (run (.waitf (F .zero (.v 2) (.v 7) (.v 8) .n32 0x300)) (mappedOne [(2, 0x2000), (7, 10)] [(0x2000, 10)]))).pc = 1 := by
  decide +kernel
theorem test_waitw :
    (th (run (.waitw (F .zero (.v 2) .zero .zero .i8 0x300)) (mappedOne [(2, 0x2000)] []))).pc = 0 ∧
    (th (run (.waitw (F .zero (.v 2) .zero .zero .i8 0x300)) (mappedOne [(2, 0x2000)] [(0x2007, 0x80)]))).pc = 1 := by
  decide +kernel
/-- R372's example: barrier 4 with EXPECT 2 and PHASE 0; slots 5 and 6 SYNC in one party. -/
theorem test_barSync :
    let s := blk [thr 5 .gen [], thr 6 .gen []] [5, 6]
    let t := { s with blocks := s.blocks.map (fun b => { b with xbuf := [(barrierAddr 4 + 2, 2)] }) }
    let u := settleArrivals (run (.barSync (F .zero (.v 4) (.v 7) .zero .i8 2)) t) 0
    barrierWord u 0 4 = 0x80020000#32 ∧ (u.thread 0 6).pc = 1 ∧ (u.thread 0 5).pc = 0 ∧
    ((releaseBarriers u).thread 0 5).pc = 1 := by decide
/-- EXPECT 2 and four SYNCs of one clock: those of slots 6 and 8 complete a phase and go on; PHASE is then 0 again, and
the others wait (R232, R372). -/
theorem test_barSync_four :
    let s := blk [thr 5 .gen [], thr 6 .gen [], thr 7 .gen [], thr 8 .gen []] [5, 6, 7, 8]
    let t := { s with blocks := s.blocks.map (fun b => { b with xbuf := [(barrierAddr 4 + 2, 2)] }) }
    let u := releaseBarriers (settleArrivals (run (.barSync (F .zero (.v 4) (.v 7) .zero .i8 2)) t) 0)
    [5, 6, 7, 8].map (fun q => (u.thread 0 q).pc.toNat) = [0, 1, 0, 1] := by decide
theorem test_barArv :
    let s := one .gen []
    let t := { s with blocks := s.blocks.map (fun b => { b with xbuf := [(barrierAddr 4 + 2, 2)] }) }
    barrierWord (settleArrivals (run (.barArv (F .zero (.v 4) .zero .zero .i8)) t) 0) 0 4 = 0x00020001#32 := by decide
theorem test_barWt :
    let f := fun (regs : SMap 32) => th (releaseBarriers (run (.barWt (F .zero (.v 4) (.v 7) .zero .i8 1)) (one .gen regs)))
    (f []).wait = .barrier 4 false ∧ (f [(7, 1)]).pc = 1 := by decide

/-! ## Transactions -/

/-- TXB with the lock word of 0: one read entry, the exit word 20 words on. -/
theorem test_txb :
    let t := (th (run (.txb (I .zero (.v 2) 4 20)) (mappedOne [(2, 0x2000)] [(0x2004, 1)]))).tx
    t.map (fun x => (x.depth, x.scope, x.exitWord, x.reads.length, x.lockAddr)) = some (1, 4, 20, 1, 0x2000) := by
  decide +kernel
/-- TXE with no transaction reports NONE, predicate false (R239). -/
theorem test_txe : let s := run (.txe (T (.v 6) .zero .zero .zero .i8 3)) (one .gen [])
    owed s = [(.v 6, 12)] ∧ (got s 0).2 = some (3, false) := by decide
theorem test_txq : due (.txq (T (.v 7) .zero .zero .zero .i8)) [] = [(.v 7, 12)] := by decide
/-- TXA at depth 0 only goes on. -/
theorem test_txa : (th (run (.txa (I .zero .zero 0 5)) (one .gen []))).pc = 1 := by decide
/-- The commit lands a write (R248); with a read entry that no longer agrees it does not, and reports CONFLICT. -/
theorem test_txCommit :
    let x : FForm := T (.v 6) .zero .zero .zero .i8 3
    let tx : Tx := ⟨1, 4, 20, 0, 0, none, 0, [⟨0x3000 / 32, 0, 0, false⟩], [⟨0x2000 / 32, 0, 1, 0x55, false⟩]⟩
    let s := fun (m : SMap 8) => mapped [{ thr 0 .gen [] with wait := .commit x, tx := some tx }] [] m
    byteAt (run (.txCommit 0 0) (s [])) 0x2000 = 0x55 ∧ (got (run (.txCommit 0 0) (s [])) 0).2 = some (3, true) ∧
    byteAt (run (.txCommit 0 0) (s [(0x3000, 9)])) 0x2000 = 0 ∧
    (got (run (.txCommit 0 0) (s [(0x3000, 9)])) 0) = (some (1 * 2 ^ 23 + 1 * 2 ^ 19 + 1 * 2 ^ 16 + 1), some (3, false)) := by
  decide +kernel

/-! ## Engines -/

/-- A copy command of slot 0 with no batch yet. -/
def cmd (id : Nat) (batch : Option Word) (ended : Option (Nat × Nat)) (reported : Bool) : CopyCmd :=
  ⟨id, .tcpy, some (0, 0), 2, 0x10000, none, 0, TensorDesc.none, TensorDesc.none, none, none, none, batch, 0, none, false,
    false, [], ended, reported, 0⟩
theorem test_tseal :
    let s := { one .copy [] with copies := [cmd 0 none none false], threads := [{ thr 0 .copy [] with batch := 0xFFFFFFFE }] }
    let t := run (.tseal (F .zero .zero .zero .zero .i8)) s
    t.copies.map (·.batch) = [some 0xFFFFFFFE#32] ∧ (th t).batch = 0 := by decide
theorem test_twait :
    (th (run (.twait (F .zero (.v 1) .zero .zero .i8)) { one .copy [] with copies := [cmd 0 (some 0) none false] })).wait = .batch 0 ∧
    (th (run (.twait (F .zero (.v 1) .zero .zero .i8)) { one .copy [] with copies := [cmd 0 (some 0) (some (0, 0)) true] })).pc = 1 := by
  decide
/-- A descriptor at 0x4000 of 4 bytes in HBM, as the source and, at 0x4080, as the destination. -/
def descs : SMap 8 :=
  [(0x4001, 0x50), (0x4008, 0), (0x4081, 0x60)]
theorem test_tcpy :
    let s := mapped [thr 0 .copy [(2, 0x4000), (4, 0x4080)]] [0] descs
    let t := run (.tcpy (F .zero (.v 2) (.v 4) .zero .i8)) s
    t.copies.map (fun k => (k.id, k.src.base, k.dst.base, k.batch)) = [(0, 0x5000, 0x6000, none)] ∧ (th t).pc = 1 := by
  decide +kernel
theorem test_pfetch :
    let s := mapped [thr 0 .copy [(2, 0x4000)]] [0] descs
    (run (.pfetch (F .zero (.v 2) .zero .zero .i8)) s).copies.map (fun k => (k.kind, k.src.base)) = [(.pfetch, 0x5000)] := by
  decide +kernel
/-- TCPY.RESUME reads the code and position of a completed word (R390). -/
theorem test_tcpyResume :
    let s := mapped [thr 0 .copy [(2, 0x4000), (4, 0x4080), (6, 0x4100)]] [0] (descs ++ [(0x4100, 2), (0x4103, 7), (0x4107, 0x80)])
    (run (.tcpyResume (F .zero (.v 2) (.v 4) (.v 6) .i8 0x800)) s).copies.map (·.resumeFrom) = [some (2, 7)] := by
  decide +kernel
/-- COLL of fewer members than two raises PLACE (R390). -/
theorem test_coll :
    let s := mapped [thr 0 .copy [(2, 0x4000)]] [0] descs
    let t := { s with blocks := s.blocks.map (fun b => { b with tvec := 7 }) }
    (th (run (.coll (F .zero (.v 2) .zero .zero .i8)) t)).tcause.toNat % 256 = cPlace := by decide +kernel
/-- A command that has ended is reported: its barrier takes the arrival (R236). -/
theorem test_copyCommandEnd :
    let k := { cmd 0 none (some (0, 0)) false with arv := some 4 }
    let t := run (.copyCommandEnd 0) { one .copy [] with copies := [k] }
    t.copies.map (·.reported) = [true] ∧ barrierWord t 0 4 = 0x80000000#32 := by decide

/-! ## The matrix engine and residues -/

/-- R358's example: a3 with E = −37, element (0, 5) m = 99 × 2^34 + 2. -/
theorem test_accrd :
    let s := blk [thr 5 .epi []] [5]
    let t := { s with blocks := s.blocks.map (fun b => { b with
      accE := [(3, BitVec.ofInt 16 (-37))], accM := [(1024 * 3 + 5, BitVec.ofNat 48 (99 * 2 ^ 34 + 2))] }) }
    let u := run (.accrd (T (.v 8) (.v 2) .zero .zero .bf16 3)) t
    (got u 5).1 = some 0x4146 ∧ ((u.thread 0 5).pend.map (·.flags)) = [1#5] := by decide +kernel
/-- ACCWR then reads back: 1.0 into row 0. -/
theorem test_accwr :
    let t := run (.accwr (F .zero (.v 6) (.v 7) .zero .f32 9)) (one .epi [(7, 0x3F800000)])
    (fmtF32.encode .rne false (elemValue (accElem (t.block 0) 9 0) (accExp (t.block 0) 9))).1 = 0x3F800000 := by decide +kernel
theorem test_mzero :
    let s := one .epi [(3, 0xFFFFFFDB)]
    let t := { s with blocks := s.blocks.map (fun b => { b with accM := [(1024 * 9, 5)] }) }
    accExp ((run (.mzero (F .zero (.v 3) .zero .zero .i8 9)) t).block 0) 9 = -37 ∧
    (accElem ((run (.mzero (F .zero (.v 3) .zero .zero .i8 9)) t).block 0) 9 0).m = 0 := by decide +kernel
theorem test_mzeroAuto :
    accAuto ((run (.mzeroAuto (F .zero .zero .zero .zero .i8 0x409)) (one .epi [])).block 0) 9 = true := by decide +kernel
theorem test_mzeroRns :
    let s := one .epi []
    let t := { s with blocks := s.blocks.map (fun b => { b with rnsCfg := 2 }) }
    ((run (.mzeroRns (F .zero .zero .zero .zero .i8 0x804)) t).block 0).quads.map (fun q => (q.q, q.d)) = [(1, 2)] := by
  decide +kernel
/-- A sequencer at a stream word. -/
def seqAt (q : Seq) : State :=
  { one .gen [] with actor := .seq 0, blocks := [{ Block.blank 0 with seq := { q with state := .running } }] }
/-- R133's example: SC0 goes 0 → 3 → 2 and the jump is taken; at 1 it falls through. -/
theorem test_mjmp :
    let q := fun n => { Seq.blank with spc := 2, sc := [n, 0, 0, 0] }
    let f := fun n => ((run (.mjmp { I .zero .zero 0 0x3FFFF with ctl := k0 }) (seqAt (q n))).block 0).seq
    [0, 2, 1].map (fun n => ((f n).spc.toNat, (f n).sc.headD 9)) = [(1, 2), (1, 1), (3, 0)] := by decide
theorem test_mend : ((run (.mend (T .zero .zero .zero .zero .i8)) (seqAt Seq.blank)).block 0).seq.state = .idle := by
  decide +kernel
theorem test_mbarArv :
    let t := run (.mbarArv (T .zero .zero .zero .zero .i8 4)) (seqAt Seq.blank)
    (t.block 0).seq.parts = 0x10#32 ∧ barrierPhase t 0 4 = true ∧ (t.block 0).seq.spc = 1 := by decide +kernel
/-- MBAR.WT holds while the phase is its parity, and flips the parity when it goes on. -/
theorem test_mbarWt :
    ((run (.mbarWt (T .zero .zero .zero .zero .i8 0x104)) (seqAt Seq.blank)).block 0).seq.spc = 0 ∧
    (let t := run (.mbarWt (T .zero .zero .zero .zero .i8 0x104)) (seqAt { Seq.blank with parity := 0x10 })
     (t.block 0).seq.spc = 1 ∧ (t.block 0).seq.parity = 0) := by decide +kernel
theorem test_mbarSync :
    let t := run (.mbarSync (T .zero .zero .zero .zero .i8 0x204)) (seqAt Seq.blank)
    (t.block 0).seq.spc = 1 ∧ (t.block 0).seq.parity = 0x10#32 := by decide +kernel
/-- MMAD on a tile whose tag names no format stops the stream with FORMAT (R140). -/
theorem test_mmad : ((run (.mmad { I (.v 2) (.v 5) 0 0 with ctl := k0 }) (seqAt Seq.blank)).block 0).seq.state = .stopped := by
  decide +kernel
theorem test_mstart :
    let t := run (.mstart (F .zero (.v 2) (.v 4) .zero .i8)) (mapped [thr 0 .feed [(2, 40), (4, 0x2000)]] [0] [])
    (t.block 0).seq.state = .running ∧ (t.block 0).seq.spc = 40 ∧ (t.block 0).seq.cw = 0x2000 := by decide +kernel
/-- MSTART.RESUME with no stopped stream writes ABORTED at once (R442). -/
theorem test_mstartResume :
    let t := run (.mstartResume (F .zero .zero (.v 4) .zero .i8 0x80)) (mapped [thr 0 .feed [(4, 0x2000)]] [0] [])
    byteAt t 0x2000 = 7 ∧ byteAt t 0x2007 = 0x80 := by decide +kernel
/-- R378's example: HITS 2 in memory, 5 uncounted in cohort 3, 1 in cohort 7: GET gives 8; SETKH with HITS 0 leaves 8,
SET leaves 0. -/
def bounded : State :=
  let s := mapped [thr 0 .gen [(6, 9), (7, 0x100)]] [0] [(0x20000 + 144 + 4, 2)]
  { s with
    regs := { s.regs with bndBase := 0x20001 }
    bndown := [(9, 2)]
    blocks := s.blocks.map (fun b => { b with ctx := 2 })
    bounds := [⟨3, 9, 0, 5⟩, ⟨7, 9, 0, 1⟩] }
theorem test_bndsetGet : (xRead (run (.bndsetGet (F .zero (.v 6) (.v 7) .zero .i8 0x200)) bounded) 0 0x104 1) = [8] := by
  decide +kernel
theorem test_bndsetKh : byteAt (run (.bndsetKh (F .zero (.v 6) (.v 7) .zero .i8 0x100)) bounded) 0x20094 = 8 := by decide +kernel
theorem test_bndset : byteAt (run (.bndset (F .zero (.v 6) (.v 7) .zero .i8)) bounded) 0x20094 = 0 := by decide +kernel

/-- One GEN thread of a block with a residue profile. -/
def residue (regs : SMap 32) : State :=
  let s := one .gen regs
  { s with blocks := s.blocks.map (fun b => { b with rnsCfg := 2 }) }
/-- R464's example. -/
theorem test_rnschk : owed (run (.rnschk (T (.v 20) (.v 12) .zero .zero .i8)) (residue [(12, 0x0000CE04), (14, 0x00001418)])) =
    [(.v 20, 0x11)] := by decide +kernel
/-- R465's example. -/
theorem test_rnsf :
    let s := run (.rnsf (F .zero (.v 4) (.v 5) (.v 11) .i32)) (residue [(4, 0xFFFFFC18), (5, 0x100), (11, 0x1000)])
    [0x100, 0x1100, 0x2100, 0x3100, 0x4100].map (fun a => (xRead s 0 a 1).map (·.toNat)) = [[4], [205], [24], [20], [10]] := by
  decide +kernel
/-- RNSR of a quad that is not in residue mode is FORMAT (R466). -/
theorem test_rnsr :
    let s := one .epi []
    let t := { s with blocks := s.blocks.map (fun b => { b with tvec := 7 }) }
    (th (run (.rnsr (T (.v 16) (.v 6) .zero .zero .i8)) t)).tcause.toNat % 256 = cFormat := by decide +kernel
theorem test_rnscfgSet :
    let t := run (.rnscfgSet (F .zero (.v 6) .zero .zero .i8)) (one .gen [(6, 2)])
    ((t.block 0).rnsAt t.clock (some 0)) = 2 := by decide +kernel
theorem test_rnscfgGet :
    (xRead (run (.rnscfgGet (F .zero (.v 6) .zero .zero .i8 0x400)) (residue [(6, 0x100)])) 0 0x100 1) = [2] := by decide +kernel

/-! ## Witnesses: for each statement with hypotheses, states and operands that meet them -/

theorem wit_EncodeThenDecodeThread : (Instr.add (F (.v 383) (.k 3) (.s 63) .zero .i32)).wfThread = true ∧
    (Instr.brm k7 [(⟨true, 15⟩, 0x1000), (⟨false, 0⟩, 0xFFF), (g0, 0), (g0, 1)]).wfThread = true := by decide
theorem wit_EncodeThenDecodeStream : (Instr.mmad { I (.v 31) (.v 15) 3 0xFFFFFFFF with ctl := k0 }).wfStream = true := by decide
theorem wit_DecodedWordReencodes :
    decodeThread 0x38000211C471389C40000000 = .ok (.nop (F .zero .zero .zero .zero .i8)) ∧
    decodeStream 0x40001209C47100000003FFFF = .ok (.mjmp { I .zero .zero 0 0x3FFFF with ctl := k0 }) := by decide

/-- The state in which NOP stands at word 0. -/
def atNop : State := State.reset.withFetchWord 96 0x38000211C471389C40000000

theorem wit_EveryStepKeepsMemoryCanonical : atNop.memWf = true ∧ atNop.mem ≠ [] ∧ (match step atNop with
    | .next t => (t.thread 0 0).pc == 1
    | _ => false) = true := by decide +kernel
theorem wit_EveryStepKeepsLoopAndCallBounds :
    let s := blk [{ thr 0 .gen [] with loops := two ++ two, stack := List.replicate 64 7 }] [0]
    s.bounded = true ∧ (match step s with
      | .next _ => true
      | _ => false) = true := by decide +kernel

/-- The second clause of `StepRunsTheDecodedInstruction`: quarter 0 of core 0 issues NOP. -/
theorem wit_StepRunsTheDecodedInstruction_quarter :
    let s := atNop
    let r : List Turn := [.barriers 0]
    let a := arrivals (s.setTurns r) 0 0
    let b := clearYields a 0 0 (readyOf a 0 0)
    let b' := b.modBlock 0 (fun x => { x with holds := x.holds.filter (fun h => h.1 != 0) })
    s.agenda = [] ∧ s.turns = .quarter 0 0 :: r ∧ s.halted = false ∧ (s.block? 0).isSome = true ∧
    partyNow b 0 0 (readyOf b 0 0) = some ([0], false) ∧ (b'.thread 0 0).wait = .none ∧
    (match (fetchWord b' (b'.agent 0) 0 (b'.thread 0 0).pc).2 with
      | .ok w => decodeThread w == .ok (.nop (F .zero .zero .zero .zero .i8))
      | .error _ => false) = true ∧
    bankHold ([0].map (b'.thread 0)) (.nop (F .zero .zero .zero .zero .i8)) = 0 := by decide +kernel

/-- The third: a running sequencer at MEND. -/
theorem wit_StepRunsTheDecodedInstruction_sequencer :
    let s := State.reset.withFetchWord 96 0x00001207C471389C40000000
    s.agenda = [] ∧ s.turns = [.sequencer 0] ∧ s.halted = false ∧ (s.block? 0).isSome = true ∧
    (s.block 0).seq.state = .running ∧ (s.block 0).seq.waiting = none ∧ (s.block 0).seq.busy ≤ s.clock ∧
    (s.block 0).seq.armed = none ∧
    (match (fetchWord (s.setTurns []) (s.agent 0) 1024 (s.block 0).seq.spc).2 with
      | .ok w => decodeStream w == .ok (.mend (T .zero .zero .zero .zero .i8))
      | .error _ => false) = true := by decide +kernel
/-- The first and the last. -/
theorem wit_StepRunsTheDecodedInstruction_agenda :
    (({ State.reset with agenda := [.mgsemTimeout] } : State).agenda = .mgsemTimeout :: []) ∧
    State.reset.agenda = [] ∧ State.reset.turns = [] ∧
    (let s : State := { State.reset with turns := [.barriers 0] }
     s.agenda = [] ∧ s.turns = .barriers 0 :: [] ∧ s.halted = false ∧ ({ s with halted := true } : State).halted = true) ∧
    (let s : State := { State.reset with halted := true, usAcc := State.reset.regs.clkMHz - 1 }
     s.halted = true ∧ semDue s = false ∧ (endClock s).usAcc = 0 ∧ (endClock s).turns = [.leaks]) := by
  decide
/-- A counter of a halted package leaks at a whole multiple of its period (R288). -/
theorem test_halted_leak :
    let s : State := { State.reset with
      halted := true, timeUs := 2000000, turns := [.leaks], counters := [⟨.cohort, 3, 5⟩] }
    (stepped (stepped s)).counter .cohort 3 = 4 := by decide +kernel
/-- After a bank hold (R80): the party that was held, whose word's tags are still arrived. -/
theorem wit_StepRunsTheDecodedInstruction_held :
    let s : State := { atNop with blocks := atNop.blocks.map (fun b => { b with holds := [(0, [0])] }) }
    let a := arrivals (s.setTurns [.barriers 0]) 0 0
    let b := clearYields a 0 0 (readyOf a 0 0)
    partyNow b 0 0 (readyOf b 0 0) = some ([0], true) ∧
    tagsArrived (b.thread 0 0) (Ctl.tags (Instr.nop (F .zero .zero .zero .zero .i8)).ctl) = true := by decide +kernel

/-- Every word of classes 0 to 3 and the moves that completes without a condition, each issued by one thread. -/
theorem wit_integer_words :
    ([.abs (F (.v 3) (.v 1) .zero .zero .i32), .add (F (.v 3) (.v 1) (.v 2) .zero .i32), .sub (F (.v 3) (.v 1) (.v 2) .zero .i32),
      .mul (F (.v 3) (.v 1) (.v 2) .zero .i32), .and (F (.v 3) (.v 1) (.v 2) .zero .i32), .or (F (.v 3) (.v 1) (.v 2) .zero .i32),
      .xor (F (.v 3) (.v 1) (.v 2) .zero .i32), .min (F (.v 3) (.v 1) (.v 2) .zero .i32), .max (F (.v 3) (.v 1) (.v 2) .zero .i32),
      .shl (F (.v 4) (.v 8) (.v 2) .zero .n64), .shr (F (.v 3) (.v 1) (.v 2) .zero .n32), .sha (F (.v 3) (.v 1) (.v 2) .zero .i32),
      .clz (F (.v 3) (.v 1) .zero .zero .n32), .bfi (F (.v 3) (.v 1) (.v 2) (.v 4) .n32), .bfx (F (.v 3) (.v 1) .zero (.v 4) .n32),
      .lea (F (.v 6) (.v 4) (.v 2) (.v 1) .i32), .mad (F (.v 3) (.v 1) (.v 2) (.v 4) .i64), .sel (F (.v 3) (.v 1) (.v 2) .zero .n32 1),
      .not (F (.v 3) (.v 1) .zero .zero .n32), .popc (F (.v 3) (.v 4) .zero .zero .n64), .brev (F (.v 3) (.v 1) .zero .zero .n32),
      .addImm (I (.v 3) (.v 1) 0x040 5), .subImm (I (.v 3) (.v 1) 0x040 5), .mulImm (I (.v 3) (.v 1) 0x040 5),
      .andImm (I (.v 3) (.v 1) 0x0C0 5), .orImm (I (.v 3) (.v 1) 0x0C0 5), .xorImm (I (.v 3) (.v 1) 0x0C0 5),
      .minImm (I (.v 3) (.v 1) 0x0C0 5), .maxImm (I (.v 3) (.v 1) 0x0C0 5), .shlImm (I (.v 3) (.v 1) 0x0C0 5),
      .shrImm (I (.v 3) (.v 1) 0x0C0 5), .shaImm (I (.v 3) (.v 1) 0x040 5)] : List Instr).all
      (fun i => meets i always (one .gen [(1, 5)])) = true := by decide
theorem wit_predicate_float_words :
    ([.cmp (F .zero (.v 1) (.v 2) .zero .i32 0x403), .fcmp (F .zero (.v 1) (.v 2) .zero .f32 0x403),
      .plop { F .zero .zero .zero .zero .i8 0x312 with ty2 := .n8 },
      .fadd (F (.v 3) (.v 1) (.v 2) .zero .f32), .fmul (F (.v 3) (.v 1) (.v 2) .zero .f32), .ffma (F (.v 3) (.v 1) (.v 2) (.v 4) .f32),
      .fmin (F (.v 3) (.v 1) (.v 2) .zero .f16), .fmax (F (.v 3) (.v 1) (.v 2) .zero .bf16), .fclass (F (.v 3) (.v 1) .zero .zero .f32),
      .frnd (F (.v 3) (.v 1) .zero .zero .f32), .fcvt { F (.v 3) (.v 1) .zero .zero .i32 with ty2 := .f32 },
      .faddImm (I (.v 3) (.v 1) 0x100 5), .fmulImm (I (.v 3) (.v 1) 0x100 5), .fminImm (I (.v 3) (.v 1) 0x100 5),
      .fmaxImm (I (.v 3) (.v 1) 0x100 5), .fdiv (T (.v 3) (.v 1) (.v 2) .zero .f32), .rcp (T (.v 3) (.v 1) .zero .zero .f32),
      .rsq (T (.v 3) (.v 1) .zero .zero .f32), .sqrt (T (.v 3) (.v 1) .zero .zero .f32), .ex2 (T (.v 3) (.v 1) .zero .zero .f32),
      .lg2 (T (.v 3) (.v 1) .zero .zero .f32), .sin (T (.v 3) (.v 1) .zero .zero .f32), .cos (T (.v 3) (.v 1) .zero .zero .f32),
      .tanh (T (.v 3) (.v 1) .zero .zero .f32), .mov (F (.v 3) (.v 1) .zero .zero .n32), .movi (I (.v 3) .zero 0 5),
      .nop (F .zero .zero .zero .zero .i8), .pair k7 ⟨.fmac, .v 8, false, .v 2, .v 3, 0⟩ ⟨.fmac, .v 9, false, .v 2, .v 7, 0⟩,
      .srd (T (.v 6) .zero .zero .zero .i8 0x040), .swr (F .zero (.v 4) .zero .zero .i8 4), .elect (F (.v 3) .zero .zero .zero .i8 5),
      .bra k7 g0 1, .brm k7 [(g0, 1)], .brx (F .zero (.v 2) .zero .zero .i8), .call k7 g0 1, .callx (F .zero (.v 2) .zero .zero .i8),
      .lbrk (F .zero .zero .zero .zero .i8), .join ⟨k7, false, 1, .v 2, .v 3⟩, .prio (F .zero (.v 2) .zero .zero .i8),
      .yield (F .zero .zero .zero .zero .i8), .svc (I .zero .zero 0 5), .fence (F .zero .zero .zero .zero .i8 0x500),
      .barArv (F .zero (.v 4) .zero .zero .i8), .barWt (F .zero (.v 4) (.v 7) .zero .i8 1), .barSync (F .zero (.v 4) (.v 7) .zero .i8 2),
      .txa (I .zero .zero 0 5), .txe (T (.v 6) .zero .zero .zero .i8 3), .txq (T (.v 6) .zero .zero .zero .i8)] : List Instr).all
      (fun i => meets i always (one .gen [(1, 5)])) = true := by decide
/-- A word that waits for a result which has arrived, under a guard that a pending predicate makes true, in a party of
two; a false guard. -/
theorem wit_party_of_two :
    let p : Pending := ⟨0, [(.v 1, 7)], some (1, true), 0, true, none, none, 0, 0, 0, 0, 0, 0, false⟩
    let s := blk [{ thr 4 .gen [] with pend := [p] }, { thr 5 .gen [] with pend := [{ p with pred := none }] }] [4, 5]
    let i : Instr := .add { F (.v 3) (.v 1) (.v 2) .zero .i32 with ctl := ⟨7, 1, false, false⟩, g := ⟨false, 1⟩ }
    partyOk i always (putFixed (.v 3) false 1 (fun s c q => (readSrc s c q (.v 1) 1, 0))) (skipFixed (.v 3) false) 0 s [4, 5] = true ∧
    guardOn i s 0 4 = true ∧ guardOn i s 0 5 = false := by decide
theorem wit_MoveResults :
    let ok := fun (k : Instr → Option (Opnd × Opnd)) (i : Instr) (s : State) (c q : Nat) => match k i with
      | some (b, x) =>
        let n : Int := b.code.toNat + (readWord s c q x).toInt
        decide (0 ≤ n) && decide (n < ((s.block c).limitOf (s.thread c q).role : Int)) &&
          !(s.thread c q).regPoison.contains (rotateName (s.thread c q).loops n.toNat)
      | none => false
    let base := fun (i : Instr) => match i with
      | .movx w => some (w.a, w.b)
      | .movxw w => some (w.d, w.b)
      | _ => none
    ([.movx (F (.v 20) (.v 16) (.v 3) .zero .i8), .movxw (F (.v 10) (.v 4) (.v 3) .zero .i8),
      .movx (F (.v 20) (.v 383) (.v 2) .zero .i8)] : List Instr).all
      (fun i => meets i (ok base i) (one .gen [(3, 0xFFFFFFFF)])) = true := by decide
theorem wit_ElectNamesTheLowestActingSlot :
    let w := F (.v 3) .zero .zero .zero .i8 5
    let s := blk [thr 64 .gen [], thr 65 .gen []] [64, 65]
    let on : Effect := thenNext fun s' c q =>
      let e := (actingSlots (.elect w) s).headD q
      writePred (fixedResult s' c q w.d w.nwb 1 e 0) c q w.prd (q == e)
    s.actor = .party 0 [64, 65] ∧ partyOk (.elect w) always on (skipFixed w.d w.nwb) 0 s [64, 65] = true := by decide
theorem wit_thread_present : ((one .gen [(1, 5)]).thread? 0 0).isSome = true ∧
    SMap.wf ((one .gen [(1, 5)]).thread 0 0).regs = true := by decide
/-- A pair in a window and outside it, a uniform register with no write pending, and two writes of one. -/
theorem wit_ResultReachesOneRegister :
    ((List.range 2).map (fun i => rotateName [⟨4, 41, 49, false, 1, 2, 1, 5⟩] (16 + i))).Nodup ∧
    (((one .gen []).block? 0).isSome = true ∧ ∀ x ∈ ((one .gen []).block 0).uniPend, x.reg < 4 ∨ 4 + 2 ≤ x.reg) ∧
    (let w : UniWrite := ⟨4, 7, 9, 1, 33⟩
     ([⟨4, 8, 8, 3, 96⟩, ⟨4, 8, 9, 0, 2⟩, ⟨4, 8, 9, 1, 34⟩] : List UniWrite).all (fun x => decide (x.clock + 4 ≤ 13 ∧
       (x.clock < w.clock ∨ (x.clock = w.clock ∧
         (x.quarter < w.quarter ∨ (x.quarter = w.quarter ∧ w.slot < x.slot)))))) = true) := by decide
/-- Two results for v3 commit oldest first, over a later fixed-latency write; a poisoned one writes nothing; s4 written
at clock 0 is another thread's from clock 4 on. -/
theorem test_commit :
    let p : Pending := ⟨1, [(.v 3, 5)], some (2, true), 1, true, none, none, 0, 0, 0, 0, 0, 0, false⟩
    let s := blk [{ thr 0 .gen [(3, 9)] with pend := [p, { p with tag := 0, dst := [(.v 3, 7)], flags := 2 },
      { p with dst := [(.v 3, 8)], poison := some 0 }, { p with tag := 2 }] }] [0]
    let t := commitTags s 0 0 [0, 1]
    reg t.1 3 = 7 ∧ (th t.1).tst = 3 ∧ (th t.1).pred 2 = true ∧ (th t.1).pend.map (·.tag) = [2] ∧
    t.2.map (fun p => p.poison) = some (some 0) ∧
    (let u := fixedResult s 0 0 (.s 4) false 1 6 0
     [(0, 0), (0, 1), (3, 1), (4, 1)].map (fun x => ((u.block 0).uniRead (s.clock + x.1) x.2 4).toNat) = [6, 0, 0, 6]) := by
  decide
/-- A valid latch, an invalid one whose producer wrote v3, one that is lost; a pair in a window. -/
theorem wit_LatchKeepsTheNthMostRecentResult :
    let ls : List Latch := [⟨5, some 3, true⟩, ⟨8, some 3, false⟩, ⟨8, none, false⟩]
    let w : LoopLevel := ⟨4, 41, 49, false, 1, 2, 1, 5⟩
    let s := blk [{ thr 35 .gen [(3, 9), (20, 6), (21, 7)] with loops := [w], latches := ls }] [35]
    (s.thread 0 35).latches[1]? = some ⟨8, some 3, false⟩ ∧ (s.thread 0 35).latches[0]? = some ⟨5, some 3, true⟩ ∧
    ([(.k 0), (.k 1), (.v 23), .lane, .slot, .zero] : List Opnd).map (fun o => (readWord s 0 35 o).toNat) =
      [5, 9, 6, 3, 35, 0] ∧
    readSrc s 0 35 (.v 22) 2 = 6 * 2 ^ 32 := by decide
theorem wit_PredicateZeroIsTrue : 0 < 15 ∧ 15 < 16 ∧ (14 : Nat) ≠ 15 := by decide
/-- A window of 8 registers from v16 on: v16 and v23 inside, v24 outside. -/
theorem wit_RotationPermutesItsWindow :
    let l : LoopLevel := ⟨4, 41, 49, false, 1, 2, 1, 5⟩
    [l].find? (fun l => l.windowHolds 24) = none ∧ [l].find? (fun l => l.windowHolds 16) = some l ∧
    [l].find? (fun l => l.windowHolds 23) = some l ∧ rotateName [l] 16 = 21 ∧ rotateName [l] 23 = 20 := by decide
theorem wit_FloatMin : (0x7F800000 : Nat) < 2 ^ 32 ∧ (fmtF32.decode 0x7F800000).isNan = false ∧
    (fmtF32.decode 0x80000000).isNan = false ∧ (fmtF32.decode 0xFFC00001).isNan = true ∧
    [(Ty.f16, 0x7C00, 0x8000, 0xFE01), (.bf16, 0x7F80, 0x8000, 0xFFC1)].map (fun x => ([x.2.1, x.2.2.1, x.2.2.2] : List Nat).map
      (fun n => ((fmtOf x.1).decode n).isNan)) = [[false, false, true], [false, false, true]] := by decide
/-- Finite operands whose sum and product round, tie or overflow; NaN, infinities and zeros; sources of conversions. -/
theorem wit_FloatResults :
    ([0x3F800000, 0x33800000, 0x7F7FFFFF, 1, 0x80000000].all (fun n => (fmtF32.decode n).finite)) = true ∧
    (fmtF32.decode 0x3F800000).exact.1 ≠ 0 ∧ (fmtF32.decode 0x7FC00001).isNan = true ∧
    fmtF32.decode 0xFF800000 = .inf true ∧ fmtF32.decode 0x80000000 = .zero true ∧
    (fmtE4M3.decode 0x7E).finite = true ∧ Ty.n16.isInt = true ∧
    fmtBF16 ∈ [fmtF32, fmtF16, fmtBF16] ∧ Ty.e5m2 ∈ [Ty.f32, .f16, .bf16, .e4m3, .e5m2] := by decide
/-- Operands of a quotient, positive and negative, and of a root; the other cases; 470.0 to E4M3. -/
theorem wit_SpecialFunctionResults :
    let d := fmtF32.decode
    (d 0x3F800000).finite = true ∧ (d 0xC0400000).finite = true ∧ (d 0xC0400000).exact.1 < 0 ∧
    0 < (d 0x40000000).exact.1 ∧ (d 0x7FC00000).isNan = true ∧ d 0x80000000 = .zero true ∧ d 0 = .zero false ∧
    d 0x7F800000 = .inf false ∧ d 0xFF800000 = .inf true ∧
    (let top := (fmtE4M3.decode (fmtE4M3.largest false)).exact
     (d 0x43EB0000).finite = true ∧ ¬(diffOf (absOf (d 0x43EB0000).exact) (2 * top.1 + 1, top.2 - 1)).1 ≤ 0) := by decide
/-- R119: the largest F32 value doubled is infinity under RNE, with OF and NX, and itself under RZ. -/
theorem test_float_overflow :
    let m := fmtF32.decode 0x7F7FFFFF
    fAdd fmtF32 .rne m m = (0x7F800000, Flags.of ||| Flags.nx) ∧ (fAdd fmtF32 .rz m m).1 = 0x7F7FFFFF ∧
    fMul fmtF32 .rne (.inf true) (.zero false) = (0x7FC00000, Flags.iv) := by decide
/-- A live level that ends at the PC and one that is not there; two writes of TVEC of one party, and of two clocks. -/
theorem wit_SystemRegisterAccess :
    let t := { thr 0 .gen [] with pc := 220, loops := two }
    let s := blk [t] [0]
    let w : RegWrite := ⟨7, 9, 1, 33⟩
    (s.thread? 0 0).isSome = true ∧ (s.thread 0 0).loops[1]? = some ⟨5, 211, 220, false, 0, 4, 2, 0⟩ ∧
    (s.thread 0 0).innermost = some 1 ∧ (s.thread 0 0).pc = 220 ∧ two.length ≤ 2 ∧ two.length ≤ 3 ∧
    (s.block? 0).isSome = true ∧ (s.block 0).tvecPend = [] ∧ w.clock + 4 ≤ 13 ∧
    ([⟨8, 8, 3, 96⟩, ⟨8, 9, 0, 2⟩, ⟨8, 9, 1, 34⟩] : List RegWrite).all (fun x => decide (x.clock + 4 ≤ 13 ∧
      (x.clock < w.clock ∨ (x.clock = w.clock ∧
        (x.quarter < w.quarter ∨ (x.quarter = w.quarter ∧ w.slot < x.slot)))))) = true ∧
    (s.block 0).roles.find? (fun r => r.role == (s.thread 0 0).role) = some ⟨.gen, 0, 63, 48, 384, 0, 0⟩ ∧
    (s.block 0).w ≤ 24 ∧ (s.block 0).h ≤ 16 ∧ (s.block 0).bx < 24 ∧ (s.block 0).bY < 16 := by decide
/-- R13 of R12's core at (15, 9); LROT and LEND of level 1; ROLEINFO of role GEN: A 384, L 384. -/
theorem test_srd_read_only :
    let s := blk [{ thr 0 .gen [] with pc := 220, loops := two }] [0]
    (corePos (24 * 9 + 15)).toNat = 15 * 2 ^ 16 + 9 * 2 ^ 12 + 12 * 2 ^ 8 + 6 * 2 ^ 5 + 9 ∧
    [0x015, 0x019, 0x01D, 0x016, 0x044].map (readSys s 0 0) = [211, 220, 4 * 2 ^ 22 + 2 * 2 ^ 17, 0, 48 * 2 ^ 9 + 384] := by
  decide
/-- R99's LCNT of a live level counts, a dead one stays 0; TVEC written at clock 0 is another thread's from clock 4 on.
-/
theorem test_swr_lcnt_tvec :
    let s := blk [{ thr 0 .gen [] with pc := 220, loops := two }, thr 1 .gen []] [0]
    readSys (writeSys s 0 0 0x011 3) 0 0 0x011 = 3 ∧ readSys (writeSys s 0 0 0x012 3) 0 0 0x012 = 0 ∧
    [0, 3, 4].map (fun n => (((writeSys s 0 0 0x004 0x80).block 0).tvecAt (s.clock + n) 1).toNat) = [0, 0, 0x80] := by decide

/-! ### Control flow -/

theorem wit_BranchPopsTheLevelsItLeaves :
    let t := { thr 0 .gen [] with pc := 215, loops := two }
    let u : Thread := { popOutside 5 t 228 with pc := 228 }
    t.loops.length ≤ 4 ∧ u.innermost = some 0 ∧ u.loops[0]? = some ⟨9, 201, 230, false, 0, 0, 0, 0⟩ ∧
    t.innermost = some 1 ∧ (t.loops[1]?).map (fun l => (l.base.toNat, l.last.toNat)) = some (211, 220) := by decide
theorem wit_CallReturnAndExitResults :
    let ret := fun (s : State) (c q : Nat) => match (s.thread c q).stack.getLast? with
      | some e => (s.thread c q).loops.length == bits e.toNat 59 57
      | none => (s.thread c q).tx.isNone && (((commitAll s c q).1.thread c q).rfLatch).isNone
    let ext := fun (s : State) (c q : Nat) => (s.thread c q).tx.isNone && (((commitAll s c q).1.thread c q).rfLatch).isNone
    meets (.ret (F .zero .zero .zero .zero .i8)) ret (one .gen []) = true ∧
    meets (.ret (F .zero .zero .zero .zero .i8)) ret (blk [{ thr 0 .gen [] with stack := [9] }] [0]) = true ∧
    meets (.exit (F .zero .zero .zero .zero .i8)) ext (one .gen []) = true := by decide
/-- A full stack and one of 17 entries, before a call and after it; a RET that brings entry 0 back. -/
theorem wit_full_stack :
    let s := blk [{ thr 0 .gen [] with stack := List.replicate 64 7 }] [0]
    let t := blk [{ thr 0 .gen [] with stack := List.replicate 16 7 }] [0]
    let img := { t with blocks := t.blocks.map (fun (b : Block) => { b with img := List.replicate 86 0x10000 }) }
    (s.thread 0 0).stack.length = 64 ∧ (callTo (s.thread 0 0) 5).stack.length = 64 ∧
    (t.thread 0 0).stack.length + 1 = 17 ∧ imgAddr (img.block 0) (0x50000 + 0x700) = some 0x10700 := by decide
theorem wit_ReturnRestoresWhatCallSuspended :
    let t := { thr 0 .gen [] with pc := 212, loops := two }
    let full := { t with stack := List.replicate 64 7 }
    (t.loops.length ≤ 4 ∧ t.stack.length ≤ 64 ∧ (t.pc + 1).toNat < 2 ^ 57 ∧ endWord 5 t = (t, t.pc + 1)) ∧
      full.stack.length = 64 ∧ endWord 5 full = (full, full.pc + 1) := by decide
/-- A level opens at depth 0 and at depth 1, and a count of 0 also completes. -/
theorem wit_LoopResults :
    let ok := fun (w : LoopForm) (s : State) (c q : Nat) =>
      let size := if w.rotb = 63 then 0 else w.rots.toNat + 1
      let base := if w.rotb = 63 then 0 else w.rotb.toNat
      let t := s.thread c q
      let last := t.pc + w.endOff.setWidth 64
      t.loops.length < 4 && w.lvl.toNat == t.loops.length &&
        !(t.innermost.bind (fun i => t.loops[i]?)).any (fun l => l.last.toNat < last.toNat) &&
        !(size != 0 && windowClash t base size) &&
        !(w.stg != 0 && t.loops.any (fun l => !l.susp && l.stgm1 != 0))
    let w : LoopForm := ⟨k7, 0, .s 4, 9, 2, 0, 1⟩
    let x : LoopForm := ⟨k7, 2, .s 4, 5, 2, 0, 1⟩
    meets (.loop w) (ok w) (withUni (at' 40 1 [] []) [(4, 3)]) = true ∧
    meets (.loop w) (ok w) (at' 40 1 [] []) = true ∧ meets (.loop x) (ok x) (at' 215 1 two []) = true := by decide
/-- LOOP with four levels, with the wrong level, past the end of the outer body, in another's window, with a second set
of stages; RET inside another depth. -/
theorem wit_LoopResults_traps :
    let why := fun (w : LoopForm) (s : State) (c q : Nat) =>
      let t := s.thread c q
      let size := if w.rotb = 63 then 0 else w.rots.toNat + 1
      let base := if w.rotb = 63 then 0 else w.rotb.toNat
      let last := t.pc + w.endOff.setWidth 64
      if t.loops.length = 4 ∨ w.lvl.toNat ≠ t.loops.length then some (s, Trap.plain 0x08 (w.lvl.toNat + 1))
      else if (t.innermost.bind (fun i => t.loops[i]?)).any (fun l => decide (l.last.toNat < last.toNat)) = true ∨
          (0 < size ∧ ∃ l ∈ t.loops, l.susp = false ∧ l.wsize ≠ 0 ∧ l.wbase.toNat < base + size ∧
            base < l.wbase.toNat + l.wsize.toNat) ∨
          (w.stg ≠ 0 ∧ ∃ l ∈ t.loops, l.susp = false ∧ l.stgm1 ≠ 0) then
        some (s, Trap.plain 0x09 (w.lvl.toNat + 1))
      else none
    let l : LoopLevel := ⟨5, 211, 220, false, 1, 4, 2, 0⟩
    let s := fun (n : Nat) => at' 215 1 (List.replicate n l) []
    let w : LoopForm := ⟨k7, 1, .s 4, 3, 63, 0, 0⟩
    [trapped (.loop { w with lvl := 3 }) (why { w with lvl := 3 }) (s 4), trapped (.loop w) (why w) (s 2),
     trapped (.loop { w with endOff := 6 }) (why { w with endOff := 6 }) (s 1),
     trapped (.loop { w with rotb := 5 }) (why { w with rotb := 5 }) (s 1),
     trapped (.loop { w with stg := 1 }) (why { w with stg := 1 }) (s 1), trapped (.loop w) (why w) (s 1)] =
      [some 8, some 8, some 9, some 9, some 9, none] ∧
    [causeOf (.loop w) (s 2), causeOf (.loop { w with rotb := 5 }) (s 1)] = [8, 9] ∧
    trapped (.ret (F .zero .zero .zero .zero .i8)) (fun s c q => (s.thread c q).stack.getLast?.bind (fun e =>
      if (s.thread c q).loops.length = bits e.toNat 59 57 then none
      else some (s, Trap.plain 0x0A (16 * (s.thread c q).loops.length + bits e.toNat 59 57))))
      (blk [{ thr 0 .gen [] with stack := [BitVec.ofNat 64 (2 ^ 57 + 9)] }] [0]) = some 10 := by decide
/-- The three clauses: not the end word; more than one iteration left; one left. Also a level that uncovers another at
the same end word, a window of 16 registers and three stages. -/
theorem wit_EndWordEvaluation :
    let l : LoopLevel := ⟨2, 41, 49, false, 0, 0, 0, 0⟩
    let c : Thread := { thr 0 .gen [] with pc := 49, loops := [{ l with cnt := 5, wsize := 2, rrb := 3, stgm1 := 2 }, { l with cnt := 1 }] }
    let o : Thread := { c with loops := c.loops.take 1 }
    c.innermost = some 1 ∧ c.loops.length ≤ 4 ∧ o.innermost = some 0 ∧ (o.loops[0]?).map (fun l => (l.last == c.pc, l.stgm1.toNat)) = some (true, 2) ∧
    let t := fun (pc : DWord) (n : Word) => { thr 0 .gen [] with pc := pc, loops := [{ l with cnt := n }] }
    (t 48 2).innermost = some 0 ∧ l.last ≠ (t 48 2).pc ∧ l.last = (t 49 2).pc ∧ 1 < (2 : Word).toNat ∧
    (1 : Word).toNat ≤ 1 ∧ ((t 49 1).popLevel 0).innermost = none := by decide
theorem wit_JoinPriorityAndYieldResults :
    let w := fun (q : Nat) (x : Nat) => { thr (160 + q) .gen [] with wait := .join 3 x 1 false }
    let s := { blk [w 0 150, w 1 150] [] with clock := 150 }
    let u := { blk [w 0 150] [] with clock := 151, threads := [w 0 150, thr 161 .gen []] }
    joinComplete s 0 160 = true ∧ joinComplete u 0 160 = false ∧ (u.thread 0 160).live = true ∧ 150 < u.clock ∧
    (let v := { u with clock := 150 }
     joinComplete v 0 160 = false ∧ v.clock = 150 ∧ v.turns = []) ∧
    partyOk (.prio (F .zero (.v 2) .zero .zero .i8)) always justNext justNext 0 (blk [thr 0 .gen [], thr 1 .gen []] [0, 1]) [0, 1] = true ∧
    (let p := one .gen [(2, 3)]
     mayIssue (.prio (F .zero (.v 2) .zero .zero .i8)) p 0 0 = true ∧
       guardOn (.prio (F .zero (.v 2) .zero .zero .i8)) p 0 0 = true) := by decide

/-- Ready threads at one PC, one of them promoted; a party of two home lanes; a party that KEEP or its banks hold. -/
theorem wit_JoinPriorityAndYieldResults_party :
    let s : State := { atNop with threads := [thr 0 .gen [], thr 1 .gen [], thr 128 .gen []] }
    let rs := readyOf s 0 0
    let p := partyOf s 0 rs (s.thread 0 0)
    rs.map (·.slot) = [0, 1, 128] ∧ (s.thread 0 0).wait = .none ∧ p = [0, 1] ∧
    (headOf (s.block 0) (rs.map (fun t => if t.slot = 128 then { t with promoted := true, age := 3584 } else t))).map
      (·.slot) = some 128 ∧
    (s.block 0).holds = [] ∧ keptParty s 0 0 rs = none ∧ (∀ r ∈ (s.block 0).roles, r.prio < 16) ∧
    (let k : State := { s with blocks := s.blocks.map (fun b => ({ b with kept := [(0, [1])], holds := [(1, [32])] } : Block)) }
     keptParty k 0 0 (readyOf k 0 0) = some [1] ∧ (partyNow k 0 0 (readyOf k 0 0)).map (·.1) = some [1] ∧
     stillHeld { k with threads := [thr 32 .gen []] } 0 [32] = true) ∧
    (let b : State := { s with copies := [], memIssues := [] }
     (s.block? 0).isSome = true ∧ (b.thread? 0 1).isSome = true) := by decide +kernel

/-! ### Faults -/

theorem wit_TrapServiceAndReturnResults :
    meets (.trap (I .zero .zero 0 77)) (fun s c q => (s.thread c q).tx.isNone) (one .gen []) = true ∧
    meets (.tret (F .zero .zero .zero .zero .i8)) (fun s c q => (s.thread c q).inTrap)
      (blk [{ thr 0 .gen [] with tst := 0x100 }] [0]) = true := by decide
/-- A thread with a handler, outside any trap, with nothing pending: also the premises of `ReturnUndoesTrapEntry`. -/
theorem wit_TakingAFaultEntersTheHandler :
    let s := handled (thr 0 .gen [])
    (s.thread? 0 0).isSome = true ∧ (s.thread 0 0).pend = [] ∧ (s.thread 0 0).inTrap = false ∧
    (Trap.plain cLoopCall 0).cause ≠ cSwTrap ∧ (s.block 0).tvecAt s.clock 0 ≠ 0 ∧ (s.thread 0 0).loops = [] ∧
    (let i : State := { s with blocks := s.blocks.map (fun b => ({ b with img := List.replicate 176 0x100000 } : Block)) }
     imgAddr (i.block 0) (threadRecord 0 + 0x900) = some 0x100900 ∧ paTier 0x100900 ≤ 1 ∧ i.remote 0x100900 = false ∧
     0x100900 % 256 = 0 ∧ i.rested = true ∧ i.memWf = true ∧ (i.block 0).tvecAt i.clock 0 ≠ 0) := by decide
/-- No handler and a resolvable cause; a thread in a handler and an unresolvable cause; a frozen thread. -/
theorem wit_SuspensionNestingAndDouble :
    let s := one .gen []
    let u := blk [{ thr 0 .gen [] with tst := 0x100 }] [0]
    (s.thread 0 0).pend = [] ∧ (s.thread 0 0).inTrap = false ∧ (s.block 0).tvecAt s.clock 0 = 0 ∧
    resolvable cNotPresent = true ∧ cNotPresent ≠ cSwTrap ∧ (u.thread 0 0).inTrap = true ∧ resolvable cLoopCall = false ∧
    ({ thr 0 .gen [] with frozen := true } : Thread).frozen = true ∧ (u.thread 0 0).pend = [] ∧ (u.block? 0).isSome = true ∧
    (s.regs.fqTail - s.regs.fqHead).toNat < 4096 ∧ ¬((4096#32) - s.regs.fqHead).toNat < 4096 ∧ s.memWf = true ∧
    (s.block 0).bx < 2 ^ 8 := by decide
/-- A role that may not issue TCPY; a limit of 8 that v9 breaks; a read-only system register. -/
theorem wit_DecodeFaultsComeFirst :
    let s := one .gen []
    let u : State := { s with blocks := s.blocks.map (fun b => ({ b with roles := [⟨.gen, 0, 63, 1, 8, 0, 0⟩] } : Block)) }
    (s.thread 0 0).live = true ∧ (resumeFault s 0 0).isNone = true ∧
    (Instr.tcpy (F .zero (.v 2) (.v 4) .zero .i8)).roleOk (s.thread 0 0).role = false ∧
    (Instr.add (F (.v 9) (.v 1) (.v 2) .zero .i32)).roleOk (s.thread 0 0).role = true ∧
    (Instr.add (F (.v 9) (.v 1) (.v 2) .zero .i32)).regRangeFault ((u.block 0).limitOf .gen) = some 9 ∧
    (Instr.add (F (.v 7) (.v 1) (.v 2) .zero .i32)).regRangeFault ((u.block 0).limitOf .gen) = none ∧
    (Instr.swr (F .zero (.v 4) .zero .zero .i8 0x014)).privFault = some 0x014 ∧
    (Instr.swr (F .zero (.v 4) .zero .zero .i8 0x014)).regRangeFault ((s.block 0).limitOf .gen) = none ∧
    (Instr.tcpy (F .zero (.v 2) (.v 4) .zero .i8)).wfThread = true ∧ (crossForm (.tcpy (F .zero (.v 2) (.v 4) .zero .i8))).isNone = true ∧
    (let x : Instr := .vote (T (.v 3) (.v 9) .zero (.s 2) .i8)
     let p := blk [thr 0 .gen [], thr 1 .gen []] [0, 1]
     x.wfThread = true ∧ (crossForm x).isSome = true ∧ x.roleOk .gen = true ∧ x.regRangeFault ((u.block 0).limitOf .gen) = some 9 ∧
     (s.thread 0 0).wait = .none ∧ [0, 1].all (fun q => (p.thread 0 q).live && (resumeFault p 0 q).isNone) = true) := by decide

/-- The turn of a quarter whose word is no instruction; a poisoned result that a word waits for; a lost latch. -/
theorem wit_DecodeFaultsComeFirst_words :
    let s := State.reset.withFetchWord 96 0
    let a := arrivals (s.setTurns [.barriers 0]) 0 0
    let b := clearYields a 0 0 (readyOf a 0 0)
    s.agenda = [] ∧ s.turns = .quarter 0 0 :: [.barriers 0] ∧ s.halted = false ∧ (s.block? 0).isSome = true ∧
    partyNow b 0 0 (readyOf b 0 0) = some ([0], false) ∧ (b.thread 0 0).wait = .none ∧
    (match (fetchWord b (b.agent 0) 0 (b.thread 0 0).pc).2 with
      | .ok w => decodeThread w == .error .illegalEncoding
      | .error _ => false) = true ∧
    (let i : Instr := .add { F (.v 3) (.k 1) (.v 2) .zero .i32 with ctl := ⟨7, 1, false, false⟩ }
     let t := { thr 0 .gen [] with latches := List.replicate 4 ⟨1, none, false⟩ }
     let u := blk [t] [0]
     let v := blk [{ t with pend := [⟨0, [], none, 0, true, some 0, none, 0, 0, 0, 0, 0, 0, false⟩] }] [0]
     i.wfThread = true ∧ (crossForm i).isNone = true ∧ (threadDecodeFault (u.block 0) (u.thread 0 0) i).isNone = true ∧
     lostLatch (u.thread 0 0) (liveUses (u.thread 0 0) i) = some 2 ∧
     (commitTags (startIssue v 0 0 i.ctl) 0 0 (Ctl.tags i.ctl)).2.isSome = true ∧
     [causeOf i u, causeOf i v] = [cLatchLost, cPoison]) := by decide +kernel

/-! ### Cross-lane words -/

/-- Two waiting members of one row, both active, with no lost latch, under VOTE and under PROJL; and one that has waited
2^20 clocks and one that has not. -/
theorem wit_CrossLaneResults :
    let v : Instr := .vote (T (.v 3) (.v 5) .zero (.s 2) .i8)
    let p : Instr := .projl (T .zero (.v 5) .zero (.s 2) .i8 0x041)
    let t := fun (i : Instr) (q : Nat) => { thr q .gen [(5, 1)] with wait := .cross i 3 true 0 }
    let s := fun (i : Instr) => blk [t i 0, t i 1] [0, 1]
    [v, p].all (fun i => (crossForm i).isSome && crossReady (s i) 0 0 && crossGroup (s i) 0 0 == [0, 1] &&
      [0, 1].all (fun r => (crossFault (s i) 0 i r).isNone)) = true ∧
    (lostLatch ((s v).thread 0 0) [(T (.v 3) (.v 5) .zero (.s 2) .i8).useA 1]).isNone = true ∧
    (s v).actor = .party 0 [0, 1] ∧ ((s v).thread 0 0).wait = .cross v 3 true 0 ∧ 0 + 2 ^ 20 ≤ 1048576 := by decide
/-- Of two members one has lost the latch that its A names: it takes LATCH_LOST, and the other's ballot leaves it out.
-/
theorem test_cross_faulted_member :
    let v : Instr := .vote (T (.v 3) (.k 1) .zero (.s 2) .i8)
    let t := fun (q : Nat) (l : Latch) => { thr q .gen [] with wait := .cross v 3 true 0, latches := [l, l, l, l] }
    let s := blk [t 0 ⟨1, none, false⟩, t 1 ⟨1, none, true⟩] [0, 1]
    let u := { s with blocks := s.blocks.map (fun b => ({ b with tvec := 0x80 } : Block)) }
    crossReady u 0 0 = true ∧ (crossFault u 0 v 0).isSome = true ∧ crossFault u 0 v 1 = none ∧
    ((run (.crossLaneExecute 0 0) u).thread 0 0).tcause.toNat % 256 = cLatchLost ∧
    (got (run (.crossLaneExecute 0 0) u) 1).1 = some 2 := by decide +kernel
theorem wit_CrossLaneValues :
    let ls : List CLane := [⟨0, true, 7, 0⟩, ⟨31, true, 8, 0⟩, ⟨5, false, 9, 0⟩]
    (ls.map (·.lane)).Nodup ∧ (T (.v 3) (.v 5) .zero (.s 2) .n32 0x200).mode = 1 ∧ (T (.v 3) (.v 5) .zero (.s 2) .n32).mode = 0 ∧
    (T (.v 3) (.v 5) .zero (.s 2) .n32 0x400).mode = 2 ∧ shflSource 2 (2 ^ 2) 5 1 = some 6 ∧ Ty.n32 ≠ .f32 ∧
    (∀ x ∈ ls, x.a < 2 ^ Ty.n32.bits) ∧ ls.any (·.on) = true ∧
    (let f : FForm := T (.v 3) (.v 5) (.v 6) (.s 2) .f32 0x400
     let up : List CLane := [⟨0, true, 7, 4⟩, ⟨2, true, 8, 4⟩, ⟨5, false, 9, 4⟩]
     up.Pairwise (fun x y => x.lane < y.lane) ∧ shflSource 0 8 2 4 = some 4 ∧ up.filter (·.on) = ⟨0, true, 7, 4⟩ :: [⟨2, true, 8, 4⟩] ∧
     f.ty = .f32 ∧ f.mode = 2 ∧ 2 < 3) ∧
    (let m : CLane := ⟨0, true, 7, 4⟩
     m ∈ ls.map (fun x => { x with b := 4 }) ∧ m.on = true ∧ (∀ x ∈ ls, x.lane < 32) ∧ 16 ∈ [2, 4, 8, 16, 32]) := by decide
/-- PUSHL's collision (R47): the higher lane wins, and the predicate tells; MATCH.ALL of unequal values is empty. -/
theorem test_pushl_match_all :
    let up : List CLane := [⟨0, true, 7, 4⟩, ⟨2, true, 8, 4⟩, ⟨4, true, 9, 5⟩]
    let w := fun (k : BitVec 12) => T (.v 3) (.v 5) (.v 6) (.s 2) .i8 k
    pushlResult (w 0xC0) up ⟨4, true, 9, 5⟩ = ⟨some 8, true, 0⟩ ∧
    matchResult (T (.v 3) (.v 5) .zero (.s 2) .i8 0x200) up ⟨4, true, 9, 5⟩ = ⟨some 0, false, 0⟩ := by decide

/-! ### Memory words -/

/-- LD and ST, untyped and typed, of a mapped page; and inside a transaction. -/
theorem wit_GlobalLoadAndStoreResults :
    let va := fun (w : IForm) (s : State) (c q : Nat) => readPair s c q w.a + w.imm.signExtend 64
    let ldOk := fun (w : IForm) (s : State) (c q : Nat) =>
      match (threadAccess s c q (va w s c q) (sizeBytes w.size) needR 1).2 with
      | .ok x => (readBytesOf (threadAccess s c q (va w s c q) (sizeBytes w.size) needR 1).1 c q x x.pa (sizeBytes w.size)).2.toBool
      | .error _ => false
    let stOk := fun (w : IForm) (s : State) (c q : Nat) =>
      let n := sizeBytes w.size
      match (threadAccess s c q (va w s c q) n (storeNeed s c q) 2).2 with
      | .ok x => match storeFinish (threadAccess s c q (va w s c q) n (storeNeed s c q) 2).1 c q x (va w s c q)
            (leBytes (readSrc s c q w.d w.dataRegs) n)
            (if x.pte.bidx = 0 ∨ 0x0C < x.pte.fmt then none else pageFmt x.pte.fmt x.pte.geo)
            (fun f => coveredElements f ((va w s c q).toNat % 65536) n) 0 with
        | .done _ => true
        | _ => false
      | .error _ => false
    let l : IForm := { I (.v 8) (.v 2) 0x080 2 with ctl := k0 }
    let t : IForm := I (.v 9) (.v 2) 0x080 2
    let s := mappedOne [(2, 0x1FFE)] []
    let u := mapped [{ thr 0 .gen [(2, 0x1FFE)] with tx := some ⟨1, 4, 20, 0, 0, none, 0, [], []⟩ }] [0] []
    meets (.ld l) (ldOk l) s = true ∧ meets (.ld l) (ldOk l) u = true ∧
    meets (.st t) (stOk t) s = true ∧ meets (.st t) (stOk t) u = true := by decide +kernel
/-- The typed clauses on a page of format F32 (LD.TF and ST.TF). -/
theorem wit_GlobalLoadAndStoreResults_typed :
    let va := fun (w : IForm) (s : State) (c q : Nat) => readPair s c q w.a + w.imm.signExtend 64
    let acc := fun (w : IForm) (s : State) (c q : Nat) => threadSpans s c q (va w s c q) (fun e pa =>
      match pageFmt e.fmt e.geo with
      | none => [(pa, 1)]
      | some f => if laneOk f w.lane = false ∨ f.dataEnd < (va w s c q).toNat % 65536 + typedBytes f (typedCount w.size w.lane)
          then [(pa, 1)] else (pa, typedBytes f (typedCount w.size w.lane)) ::
          (groupsOf f (typedFirst f ((va w s c q).toNat % 65536)) (typedCount w.size w.lane)).map (fun g =>
            (pa - (va w s c q).toNat % 65536 + f.dataEnd + f.recBytes * g, f.recBytes))) needR 1
    let got := fun (w : IForm) (s : State) (c q : Nat) (x : Xlated) (f : PageFmt) =>
      readBytesOf (acc w s c q).1 c q x x.pa (typedBytes f (typedCount w.size w.lane))
    let ldOk := fun (w : IForm) (s : State) (c q : Nat) => match (acc w s c q).2 with
      | .ok x =>
        let o := (va w s c q).toNat % 65536
        match pageFmt x.pte.fmt x.pte.geo with
        | some f =>
          (typedFault x.pte (some f) (fun f => laneOk f w.lane) o (typedCount w.size w.lane) 1 (va w s c q) x.pa).isNone &&
            (got w s c q x f).2.toBool &&
            (readScales (got w s c q x f).1 c q x (x.pa - o) f (groupsOf f (typedFirst f o) (typedCount w.size w.lane))).2.toBool
        | none => false
      | .error _ => false
    let sta := fun (w : IForm) (s : State) (c q : Nat) => threadSpans s c q (va w s c q) (fun e pa =>
      match pageFmt e.fmt e.geo with
      | none => [(pa, 1)]
      | some f => if storeFmtOk f = false ∨ f.dataEnd < (va w s c q).toNat % 65536 + typedBytes f (typedCount w.size w.lane)
          then [(pa, 1)] else [(pa, typedBytes f (typedCount w.size w.lane))])
      (storeNeed s c q) 2
    let stOk := fun (w : IForm) (s : State) (c q : Nat) => match (sta w s c q).2 with
      | .ok x => match pageFmt x.pte.fmt x.pte.geo with
        | some f =>
          let n := typedCount w.size w.lane
          let es := (storeLanes w n (readSrc s c q w.d w.dataRegs)).map (encodeLane f w.lane)
          (typedFault x.pte (some f) storeFmtOk ((va w s c q).toNat % 65536) n 2 (va w s c q) x.pa).isNone &&
          (match storeFinish (sta w s c q).1 c q x (va w s c q) (codeBytes f (es.map (·.1)))
              (if x.pte.bidx = 0 then none else some f) (fun _ => ((va w s c q).toNat % 65536, n))
              (es.foldl (fun a e => a ||| e.2) 0) with
            | .done _ => true
            | _ => false)
        | none => false
      | .error _ => false
    let l : IForm := { I (.v 8) (.v 2) 0x0A0 0 with ctl := k0 }
    let t : IForm := I (.v 9) (.v 2) 0x0A0 0
    let s := mappedOne [(2, 0x2000)] [(0x10007, 0x08)]
    l.typed = true ∧ t.typed = true ∧ meets (.ld l) (ldOk l) s = true ∧ meets (.st t) (stOk t) s = true := by decide +kernel
/-- LD and ST trap: a misaligned address, one that does not translate, a page of no typed format. Each of the checks of
R208 on the way, and an entry that passes them. -/
theorem wit_GlobalLoadAndStoreResults_traps :
    let acc := fun (w : IForm) (need : Need) (k : Nat) (s : State) (c q : Nat) =>
      match threadAccess s c q (readPair s c q w.a + w.imm.signExtend 64) (sizeBytes w.size) need k with
      | (u, .error (.trap t)) => some (u, t)
      | _ => none
    let l : IForm := { I (.v 8) (.v 2) 0x080 2 with ctl := k0 }
    let t : IForm := I (.v 9) (.v 2) 0x080 2
    let s := mappedOne [(2, 0x2001)] []
    let far := mappedOne [(2, 0x1FFE), (3, 0x100)] []
    let typed : IForm := { I (.v 8) (.v 2) 0x0A0 0 with ctl := k0 }
    trapped (.ld l) (acc l needR 1) s = some cMisaligned ∧ trapped (.st t) (acc t needW 2) s = some cMisaligned ∧
    trapped (.ld l) (acc l needR 1) far = some cNotPresent ∧ trapped (.st t) (acc t needW 2) far = some cNotPresent ∧
    causeOf (.ld typed) (mappedOne [(2, 0x2000)] [(0x10007, 0x3F)]) = cFormat ∧
    causeOf (.st typed) (mappedOne [(2, 0x2002)] [(0x10007, 0x08)]) = cMisaligned ∧
    (s.thread 0 0).tx = none ∧ (cachedXlate s (s.agent 0) 0x2001).isNone = true ∧
    (match (translate s (s.agent 0) 0x2001).2 with
     | .leaf e _ _ => e.v && s.permitted e 0x2001 needR && !s.hole 0x2001 1 && (s.leaseFault 0x2001 e.lease).isNone
     | .fail _ _ => false) = true := by decide +kernel
/-- LDX, STX and LDW trap: misaligned, past the end, at a core that is not there. -/
theorem wit_BufferAccessResults_traps :
    let why := fun (w : IForm) (s : State) (c q : Nat) => match placeWord s c w.plc (readWord s c q w.a) w.imm with
      | none => some (s, Trap.at 0x14 0 5
          ((if w.plc then (readWord s c q w.a &&& 0x1FFFFF#32) + w.imm else readWord s c q w.a + w.imm).setWidth 64))
      | some t =>
        if t.2 % sizeBytes w.size ≠ 0 then some (s, Trap.at 0x12 (sizeBytes w.size) 5 (BitVec.ofNat 64 t.2))
        else if 0x200000 < t.2 + sizeBytes w.size then some (s, Trap.at 0x11 5 5 (BitVec.ofNat 64 t.2)) else none
    let w := I (.v 8) (.v 3) 0x080 0
    let p := I (.v 8) (.v 3) 0x088 0
    let s := fun (a : Word) => one .gen [(3, a)]
    p.plc = true ∧ w.plc = false ∧
    [trapped (.stx w) (why w) (s 0x102), trapped (.stx w) (why w) (s 0x200000), trapped (.stx p) (why p) (s 0x7C000000),
     trapped (.stx w) (why w) (s 0x1FFFFC)] = [some 0x12, some 0x11, some 0x14, none] ∧
    [causeOf (.stx w) (s 0x102), causeOf (.ldx { w with ctl := k0 }) (s 0x200000), causeOf (.stx p) (s 0x7C000000),
     causeOf (.ldw { w with ctl := k0 }) (s 0x300000), causeOf (.ldw { w with ctl := k0 }) (s 0x101)] =
      [0x12, 0x11, 0x14, 0x11, 0x12] := by decide
/-- Also the last clause: an aligned address at the end of the X-buffer. -/
theorem wit_BufferAccessResults :
    let xok := fun (w : IForm) (s : State) (c q : Nat) =>
      (xCheck s c w.plc (readWord s c q w.a) w.imm (sizeBytes w.size) (sizeBytes w.size)).toBool
    let wok := fun (w : IForm) (s : State) (c q : Nat) =>
      (readWord s c q w.a + w.imm).toNat % sizeBytes w.size == 0 &&
        decide ((readWord s c q w.a + w.imm).toNat + sizeBytes w.size ≤ 0x300000)
    let w := I (.v 8) (.v 3) 0x080 0
    let r : IForm := { w with ctl := k0 }
    let s := one .gen [(3, 0x1FFFFC)]
    meets (.stx w) (xok w) s = true ∧ meets (.ldx r) (xok r) s = true ∧ meets (.ldw r) (wok r) s = true ∧
    (xCheck s 0 false (readWord s 0 0 (.v 3)) 0 4 4).toBool = true ∧ (s.block? 0).isSome = true ∧
    SMap.wf (s.block 0).xbuf = true := by decide
theorem wit_AtomicResults :
    let acc := fun (w : FForm) (s : State) (c q : Nat) => threadAccess s c q (readPair s c q w.a) (atomBytes w) needRW 3
    let rd := fun (w : FForm) (s : State) (c q : Nat) (x : Xlated) => atomicRead
      (if orderReleases w.order then releaseActions (acc w s c q).1 c q w.scope (w.order == 4) else (acc w s c q).1)
      c q x (atomBytes w)
    let ok := fun (new : State → Nat → Nat → Nat → Option Nat) (w : FForm) (s : State) (c q : Nat) =>
      match (acc w s c q).2 with
      | .ok x =>
        let a := rd w s c q x
        ((acc w s c q).1.thread c q).tx.isNone &&
          ((!(a.2.poison || a.2.lost.isSome) && (new s c q a.2.old).isNone) ||
            (releaseFails a.1 c q (releaseScope (a.1.thread c q) w) (readPair s c q w.a) x.pa).isNone)
      | .error _ => false
    let op := fun (w : FForm) (s : State) (c q old : Nat) => some (aopValue w.aop w.ty old (readSrc s c q w.b w.ty.regs) 0)
    let swap := fun (w : FForm) (s : State) (c q old : Nat) =>
      if old = readSrc s c q w.b w.ty.regs then some (readSrc s c q w.c w.ty.regs) else none
    let red := fun (w : FForm) (s : State) (c q : Nat) => match (acc w s c q).2 with
      | .ok x => !orderReleases w.order || (releaseFails (mergeUpdates (releaseActions (acc w s c q).1 c q w.scope false) c
          (fun _ => true)) c q w.scope (readPair s c q w.a) x.pa).isNone
      | .error _ => false
    let xok := fun (w : FForm) (s : State) (c q : Nat) =>
      match xCheck s c (w.sub.getLsbD 0) (readWord s c q w.a) 0 (atomBytes w) (atomBytes w) with
      | .ok t =>
        let u := if (s.thread c q).lazyFence then releaseActions s c q 4 true
          else if orderReleases w.order then releaseActions s c q (Nat.min w.scope 4) true else s
        (w.aop == 9 && leNat (xRead u t.1 t.2 (atomBytes w)) != readSrc s c q w.b w.ty.regs && !xPoisoned u t.1 t.2 (atomBytes w)) ||
          (releaseFails u c q (u.thread c q).relFence (BitVec.ofNat 64 t.2) 0).isNone
      | .error _ => false
    let s := mappedOne [(2, 0x2000), (7, 5)] [(0x2000, 10)]
    let a := T (.v 6) (.v 2) (.v 7) .zero .n32 0x600
    let k := T (.v 6) (.v 2) (.v 8) (.v 10) .n32 0x900
    let x := T (.v 6) (.v 2) (.v 7) .zero .n32
    meets (.atom a) (ok (op a) a) s = true ∧ meets (.cas k) (ok (swap k) k) s = true ∧
    meets (.cas { k with b := .v 7 }) (ok (swap { k with b := .v 7 }) { k with b := .v 7 }) s = true ∧
    meets (.atomx x) (xok x) s = true ∧ meets (.atomx { x with sub := 0x012 }) (xok { x with sub := 0x012 }) s = true ∧
    ([F .zero (.v 2) (.v 7) .zero .n32, F .zero (.v 2) (.v 7) .zero .n32 0x500].all (fun w => meets (.red w) (red w) s)) = true ∧
    Ty.n64 ≠ .f32 := by decide +kernel
/-- ATOM and CAS that trap, misaligned and not mapped; one in a transaction that reads and writes its log; ATOMX past
the end of the X-buffer. -/
theorem wit_AtomicResults_traps :
    let acc := fun (w : FForm) (s : State) (c q : Nat) =>
      match threadAccess s c q (readPair s c q w.a) (atomBytes w) needRW 3 with
      | (u, .error (.trap t)) => some (u, t)
      | _ => none
    let a := T (.v 6) (.v 2) (.v 7) .zero .n32 0x600
    let r := F .zero (.v 2) (.v 7) .zero .n32
    let x := T (.v 6) (.v 2) (.v 7) .zero .n32
    let s := mappedOne [(2, 0x2002), (7, 5)] []
    let far := mappedOne [(2, 0x2000), (3, 0x100)] []
    trapped (.atom a) (acc a) s = some cMisaligned ∧ trapped (.cas a) (acc a) far = some cNotPresent ∧
    trapped (.red r) (acc r) s = some cMisaligned ∧ causeOf (.atomx x) (one .gen [(2, 0x200000)]) = cPerm ∧
    (let u := mapped [{ thr 0 .gen [(2, 0x2000), (7, 5)] with tx := some ⟨1, 4, 20, 0, 0, none, 0, [], []⟩ }] [0]
        [(0x2000, 10)]
     meets (.atom a) (fun s c q => match threadAccess s c q (readPair s c q (.v 2)) 4 needRW 3 with
      | (u, .ok x) => (u.thread c q).tx.isSome && (match txRead u c q x x.pa 4 with
        | (v, .ok _) => (txWrite v c q x x.pa [5, 0, 0, 0]).2.toBool
        | _ => false)
      | _ => false) u = true ∧ owed (run (.atom a) u) = [(.v 6, 10)]) := by decide +kernel
theorem wit_FenceAndFlagResults :
    let va := fun (w : FForm) (s : State) (c q : Nat) => readPair s c q w.a
    let acc := fun (w : FForm) (s : State) (c q : Nat) => threadAccess s c q (va w s c q) 4 needRW 3
    let done := fun (w : FForm) (s : State) (c q : Nat) =>
      let rg := readSrc s c q w.c 4
      releaseActions (acc w s c q).1 c q w.scope false
        (inSpans (rangeSpans (acc w s c q).1 ((acc w s c q).1.agent c) (rg % 2 ^ 64) (rg / 2 ^ 64 % 2 ^ 32)))
    let rd := fun (w : FForm) (s : State) (c q : Nat) (x : Xlated) => flagRead (done w s c q) c q x 4
    let ok := fun (add : Bool) (w : FForm) (s : State) (c q : Nat) => match (acc w s c q).2 with
      | .ok x => (releaseFails (done w s c q) c q w.scope (va w s c q) x.pa).isNone && (rd w s c q x).2.lost.isNone &&
          !(rd w s c q x).2.refused && !(add && (rd w s c q x).2.poison)
      | .error _ => false
    let poll := fun (n : Nat) (w : FForm) (s : State) (c q : Nat) =>
      let r := threadAccess s c q (readPair s c q w.a) n needR 3
      match r.2 with
      | .ok x => !((flagRead r.1 c q x n).2.poison || (flagRead r.1 c q x n).2.lost.isSome)
      | .error _ => false
    let s := mappedOne [(2, 0x2000), (7, 5), (8, 0x3000), (10, 64)] []
    let f := F .zero (.v 2) (.v 7) (.v 8) .n32 0x500
    let g := F .zero (.v 2) (.v 7) (.v 8) .n32 0x504
    let w := F .zero (.v 2) (.v 7) (.v 8) .n32 0x300
    let x := F .zero (.v 2) .zero .zero .i8 0x300
    meets (.setfSt f) (ok false f) s = true ∧ meets (.setfAdd g) (ok true g) s = true ∧
    meets (.waitf w) (poll 4 w) s = true ∧ meets (.waitw x) (poll 8 x) s = true := by decide +kernel
/-- The event: a thread that waits for a flag or a completion word, not suspended; the word poisoned or not. -/
theorem wit_FenceAndFlagResults_event :
    let meets := fun (wt : Wait) (n : Nat) (bad : Bool) =>
      let s := { mapped [{ thr 0 .gen [] with wait := wt }] [0] [] with poison := if bad then [0x2000 / 32] else [] }
      let u := s.modThread 0 0 (fun t => { t with wait := .none })
      let r := threadAccess u 0 0 0x2000 n needR 3
      (s.thread 0 0).wait == wt && (s.thread 0 0).live && (s.thread 0 0).susp == .none && match r.2 with
        | .ok x => (flagRead r.1 0 0 x n).2.poison == bad && (flagRead r.1 0 0 x n).2.lost.isNone
        | .error _ => false
    [false, true].all (fun bad => meets (.flag 0x2000 1 5 4 0x3000 64) 4 bad && meets (.word 0x2000 4) 8 bad) = true := by
  decide +kernel
/-- The two outcomes of an arrival: EXPECT 2 with none and with one arrived, and the least EXPECT; barrier 31 and
another. -/
theorem wit_BarrierResults :
    ((0x00020000#32).extractLsb' 0 15).toNat + 1 < max ((0x00020000#32).extractLsb' 16 15).toNat 1 ∧
    max ((0x00020001#32).extractLsb' 16 15).toNat 1 ≤ ((0x00020001#32).extractLsb' 0 15).toNat + 1 ∧
    max ((0#32).extractLsb' 16 15).toNat 1 ≤ ((0#32).extractLsb' 0 15).toNat + 1 ∧
    ((one .gen []).block? 0).isSome = true ∧ 31 < 32 ∧ (0 : Nat) ≠ 31 ∧ SMap.wf ((one .gen []).block 0).xbuf = true ∧
    (let s := run (.barSync (F .zero (.v 4) (.v 7) .zero .i8 2)) (one .gen [])
     sortBy (fun x y => x.1 ≤ y.1) (s.block 0).arrivals = [(0, 4, some false)] ∧
     ((arrive s 0 4 false).thread 0 0).live = true ∧ ((arrive s 0 4 false).thread 0 0).wait = .barrier 4 false ∧
     s.threads.map (·.wait) = [.barrier 4 false]) ∧
    (let w := fun (q : Nat) (ph : Bool) => { thr q .gen [] with wait := .barrier 4 ph }
     let s := blk [w 0 true, w 1 false, w 2 true] []
     (s.threads.map (fun t => (t.core, t.slot))).Nodup ∧ (releaseBarriers s).threads.map (·.wait) = [.none, .barrier 4 false, .none]) := by
  decide
/-- TXB without a lock, with a free and with a taken lock, inside a transaction at depths 6 and 7, and with no slot
free. -/
theorem wit_TransactionResults :
    let free := fun (s : State) (c : Nat) => decide (slotsInUse s c < Config.txSlots)
    let log := fun (w : IForm) (s : State) (c q depth : Nat) =>
      let t := s.thread c q
      (⟨depth, w.mod9.toNat % 8, t.pc + w.imm.signExtend 64, t.stack.length, t.loops.length, none, 0, [], []⟩ : Tx)
    let opened := fun (w : IForm) (s : State) (c q : Nat) =>
      if s.hasTx c then putTx s c q (log w s c q 1) else openRegion (putTx s c q (log w s c q 1)) c
    let acc := fun (w : IForm) (s : State) (c q : Nat) =>
      threadAccess (opened w s c q) c q (readPair (opened w s c q) c q w.a) 4 needR 3
    let lock := fun (w : IForm) (s : State) (c q : Nat) =>
      (s.thread c q).tx.isNone && free s c && match (acc w s c q).2 with
        | .ok x => (txRead (acc w s c q).1 c q x x.pa 4).2.toBool
        | .error _ => false
    let a := I .zero .zero 4 20
    let b := I .zero (.v 2) 4 20
    let tx : Nat → Tx := fun d => ⟨d, 4, 20, 0, 0, none, 0, [], []⟩
    let nested := fun d => blk [{ thr 0 .gen [] with tx := some (tx d) }] [0]
    let busy := blk (thr 0 .gen [] :: (List.range Config.txSlots).map (fun n => { thr (n + 1) .gen [] with tx := some (tx 1) })) [0]
    [6, 7].all (fun d => meets (.txb a) (fun s c q => (s.thread c q).tx.isSome) (nested d)) = true ∧
    meets (.txb a) (fun s c q => (s.thread c q).tx.isNone && !free s c) busy = true ∧
    meets (.txb a) (fun s c q => (s.thread c q).tx.isNone && free s c) (one .gen []) = true ∧ a.a = .zero ∧ b.a ≠ .zero ∧
    [[], [(0x2000, 1)]].all (fun m => meets (.txb b) (lock b) (mappedOne [(2, 0x2000)] m)) = true ∧
    ([.txa (I .zero .zero 0 5), .txe (T (.v 6) .zero .zero .zero .i8 3), .txq (T (.v 6) .zero .zero .zero .i8)] :
      List Instr).all (fun i => [one .gen [], nested 1, nested 2].all (fun s => meets i always s)) = true := by decide +kernel
/-- The commit's clauses: every entry agrees, one does not, and a thread that waits for no commit. -/
theorem wit_TransactionResults_commit :
    let x : FForm := T (.v 6) .zero .zero .zero .i8 3
    let tx : Tx := ⟨1, 4, 20, 0, 0, none, 0, [⟨0x3000 / 32, 0, 0, false⟩], [⟨0x2000 / 32, 0, 1, 0x55, false⟩]⟩
    let s := fun (m : SMap 8) => mapped [{ thr 0 .gen [] with wait := .commit x, tx := some tx }] [] m
    ((s []).thread 0 0).wait = .commit x ∧ ((s []).thread 0 0).tx = some tx ∧ txFails (s []) tx = none ∧
    txFails (s [(0x3000, 9)]) tx = some txConflict ∧ txFails { s [] with poison := [0x3000 / 32] } tx = some txPoison ∧
    ((one .gen []).thread 0 0).wait = .none ∧ tx.reads = [] ++ [⟨0x3000 / 32, 0, 0, false⟩] := by decide +kernel
/-- R253: with the lock held and a later entry changed too the commit fails with LOCKED; with the lock free, with
CONFLICT. -/
theorem test_txFails_lock_first :
    let tx : Tx := ⟨1, 4, 20, 0, 0, some (0x2000 / 32), 0x2000, [⟨0x2000 / 32, 0, 0, false⟩, ⟨0x3000 / 32, 0, 0, false⟩], []⟩
    let s := fun (m : SMap 8) => mapped [] [] m
    txFails (s [(0x2000, 1), (0x3000, 9)]) tx = some txLocked ∧ txFails (s [(0x3000, 9)]) tx = some txConflict := by decide +kernel
/-- TXB at depth 7 aborts with ILLEGAL, with no slot free with NO_SLOT, under a nonzero lock with LOCKED: the thread
goes to the exit word (R239, R241, R246). -/
theorem test_txb_aborts :
    let a := I .zero .zero 4 20
    let tx : Nat → Tx := fun d => ⟨d, 4, 20, 0, 0, none, 0, [], []⟩
    let busy := blk (thr 0 .gen [] :: (List.range Config.txSlots).map (fun n => { thr (n + 1) .gen [] with tx := some (tx 1) })) [0]
    [run (.txb a) (blk [{ thr 0 .gen [] with tx := some (tx 7) }] [0]), run (.txb a) busy,
      run (.txb { a with a := .v 2 }) (mappedOne [(2, 0x2000)] [(0x2000, 1)])].map
      (fun s => ((th s).tx.isNone, (th s).pc.toNat)) = [(true, 20), (true, 20), (true, 20)] := by decide +kernel

/-! ### Engines -/

theorem wit_EngineIssueResults_copies :
    let chk := fun (resume : Bool) (w : FForm) (s : State) (c q : Nat) => issueChecks (flushPosted s c q) c
      ([⟨readPair s c q w.a, 128, 64, needR, 1⟩, ⟨readPair s c q w.b, 128, 64, needR, 1⟩] ++
        cwCheck (cwOf s c q w.c) (if resume then needRW else needW))
    let ok := fun (resume : Bool) (w : FForm) (s : State) (c q : Nat) => decide (openCopies s c < Config.maxCopies) &&
      match (chk resume w s c q).2 with
      | .ok xs => (issueReads (chk resume w s c q).1 c q 1 (xs.take 4)).2.2.isNone &&
          (issueReads (issueReads (chk resume w s c q).1 c q 1 (xs.take 4)).1 c q 2 (if resume then xs.drop 4 else [])).2.2.isNone
      | .error _ => false
    let s := mapped [thr 0 .copy [(2, 0x4000), (4, 0x4080), (6, 0x4100)]] [0] descs
    let a := F .zero (.v 2) (.v 4) .zero .i8
    let b := F .zero (.v 2) (.v 4) (.v 6) .i8
    let r := F .zero (.v 2) (.v 4) (.v 6) .i8 0x800
    meets (.tcpy a) (ok false a) s = true ∧ meets (.tcpy b) (ok false b) s = true ∧
    meets (.tcpyResume r) (ok true r) s = true := by decide +kernel
/-- PFETCH; and COLL, in a pod of two live members. -/
theorem wit_EngineIssueResults_others :
    let chk := fun (w : FForm) (size : Nat) (s : State) (c q : Nat) => issueChecks (flushPosted s c q) c
      ([⟨readPair s c q w.a, size, 64, needR, 1⟩] ++ cwCheck (cwOf s c q w.b) needW)
    let room := fun (s : State) (c : Nat) => decide (openCopies s c < Config.maxCopies)
    let pok := fun (w : FForm) (s : State) (c q : Nat) => room s c && match (chk w 128 s c q).2 with
      | .ok xs => (issueReads (chk w 128 s c q).1 c q 1 (xs.take 2)).2.2.isNone
      | .error _ => false
    let cws := fun (w : FForm) (s : State) (c q : Nat) => cwCheck (cwOf s c q w.b) needW
    let cok := fun (w : FForm) (s : State) (c q : Nat) =>
      let c1 := issueXlate (flushPosted s c q) c [⟨readPair s c q w.a, 64, 64, needR, 1⟩]
      room s c && (misaligned (⟨readPair s c q w.a, 64, 64, needR, 1⟩ :: cws w s c q)).isNone && match c1.2 with
      | .ok xs =>
        let rc := issueReads c1.1 c q 1 xs
        let n := (parseColl (leNat rc.2.1)).n
        let c2 := issueChecks rc.1 c [⟨BitVec.ofNat 64 (leNat rc.2.1 / 2 ^ 128), 128, 64, needR, 1⟩]
        let c3 := issueXlate c2.1 c (cws w s c q)
        decide (2 ≤ n) && decide (n ≤ s.live.length) && rc.2.2.isNone && c3.2.toBool && match c2.2 with
          | .ok ys => (issueReads c3.1 c q 1 ys).2.2.isNone
          | .error _ => false
      | .error _ => false
    let w := F .zero (.v 2) .zero .zero .i8
    let s := mapped [thr 0 .copy [(2, 0x4000)]] [0] descs
    let u := { mapped [thr 0 .copy [(2, 0x4000)]] [0] [(0x4008, 2), (0x4011, 0x50)] with live := [0, 1] }
    meets (.pfetch w) (pok w) s = true ∧ meets (.coll w) (cok w) u = true ∧
    meets (.coll { w with b := .v 6 }) (cok { w with b := .v 6 }) u = true := by decide +kernel
/-- EMIT to the one successor of a waypoint, with an empty ring of 4 records of 16 bytes at 0x8000: the route's
waypoints lie at 0x30000, the successor list at 0x38000. -/
def emitting : State :=
  let s := mapped [thr 0 .gen [(7, 0x100)]] [0]
    [(0x300A0, 1), (0x300A9, 0x80), (0x300AA, 3), (0x30331, 0x80), (0x30338, 2), (0x30339, 4), (0x3033A, 1), (0x38000, 1)]
  { s with routes := [⟨0, 0, 0, 2, 2, 0x30000, 0x10000, 0, 0, 0, 0, false, false, [], []⟩] }
theorem wit_BatchAndEmitResults :
    let w := F .zero (.v 6) (.v 7) .zero .i8 2
    let xb := fun (s : State) (c q : Nat) => (readWord s c q w.b).toNat
    let tgt := fun (s : State) (c q : Nat) => emitTarget (sliceAnswer s c q) c (readWord s c q w.a).toNat
    let wp := fun (s : State) (c q n : Nat) => (tgt s c q).1.wpAddr ((tgt s c q).1.block c).route n
    let ring := fun (s : State) (c q n : Nat) => readRing (tgt s c q).1 (wp s c q n)
    let chk := fun (s : State) (c q n : Nat) => ringCheck (ring s c q n).1 c (ring s c q n).2
    let ok := fun (s : State) (c q : Nat) => match (tgt s c q).2 with
      | none => false
      | some n => (ring s c q n).2.thresh != 0 && xb s c q % 16 == 0 &&
          decide (xb s c q + 2 ^ (ring s c q n).2.rsLog ≤ 0x200000) && (chk s c q n).2.toBool
    (let u := { emitting with threads := emitting.threads.map (fun t => { t with rfLatch := some 3 }), mem := SMap.set emitting.mem 0x30201 0x50 }
     mayIssue (.emit w) u 0 0 = true ∧ guardOn (.emit w) u 0 0 = true ∧
     (let i := issueState (.emit w) u 0 0
      (tgt i 0 0).2 = some 1 ∧ ok i 0 0 = true ∧ ((chk i 0 0 1).1.thread 0 0).rfLatch = some 3 ∧
      bits (physRead (ring i 0 0 1).1 (wp i 0 0 1) 4).2.1 14 12 = 5 ∧ (ring i 0 0 1).2.resv = 0)) ∧
    meets (.emit w) ok emitting = true ∧ paTier 0x8000 ≠ 3 ∧ emitting.remote 0x8000 = false ∧
    ([.tseal (F .zero .zero .zero .zero .i8), .twait (F .zero (.v 1) .zero .zero .i8)] : List Instr).all
      (fun i => meets i always (one .copy [])) = true := by decide +kernel
/-- R396's example for a ring of 4 with three slots taken: the first of two EMITs takes the last one, the second none.
-/
theorem test_emit :
    let s := emitting
    let u := { s with
      threads := [thr 12 .gen [(7, 0x100)], thr 13 .gen [(7, 0x100)]], actor := .party 0 [12, 13],
      mem := SMap.set (SMap.set s.mem 0x30340 3) 0x30344 3,
      blocks := s.blocks.map (fun b => ({ b with xbuf := [(0x100, 0x77)] } : Block)) }
    let t := run (.emit (F .zero (.v 6) (.v 7) .zero .i8 2)) u
    (t.thread 0 12).pred 2 = true ∧ (t.thread 0 13).pred 2 = false ∧ byteAt t 0x30344 = 4 ∧ byteAt t 0x8030 = 0x77 := by
  decide +kernel

/-- A reported end; a timeout that is due (a tier 1 page, TIMEOUT 3 ms of the descriptor); a collective past its time.
-/
theorem wit_CopyEndResults :
    let k := { cmd 4 none (some (0, 0)) false with cw := some 0x2000, arv := some 3 }
    let d : TensorDesc := ⟨2 ^ 40 + 0x5000, 0, 1, 2, [1], [], 3⟩
    let t := { cmd 5 none none false with src := d, dst := d }
    let c := { t with id := 6, kind := .coll }
    let s := { mapped [thr 0 .copy []] [0] [(0x10014, 4), (0x10016, 223)] with copies := [k, t, c], timeUs := 3000 }
    (s.copy? 4 == some k) = true ∧ k.ended = some (0, 0) ∧ k.reported = false ∧ (s.copy? 5 == some t) = true ∧
    (t.ended.isNone && t.kind != .coll && decide (t.pos < t.total) && ranOut s t (sideLimit s t t.src)) = true ∧
    (c.kind == .coll && c.ended.isNone && decide (c.sinceUs + 1000 * 3 ≤ s.timeUs)) = true ∧
    ({ t with begun := true } : CopyCmd).leavesUndefined codeTierTimeout 0 = true ∧ t.leavesUndefined codeAborted 0 = true ∧
    ({ t with begun := true } : CopyCmd).leavesUndefined codeDstFault cBound = false ∧
    ({ c with begun := true } : CopyCmd).leavesUndefined codeSrcPoison cPoison = true ∧
    t.kind = .tcpy ∧ 1 ≤ t.dst.es ∧ t.dst.es * t.dst.count ≤ ({ t with pos := 4 } : CopyCmd).pos := by decide +kernel
/-- The steps: a copy of 4 bytes from memory to memory, from memory into the X-buffer and back, and a prefetch. -/
def copying (kind : CopyKind) (src dst : TensorDesc) : State × CopyCmd :=
  let k := { cmd 0 none none false with kind := kind, src := src, dst := dst, begun := true }
  ({ mapped [thr 0 .copy []] [0] [(0x5000, 0x5A)] with copies := [k] }, k)
theorem wit_CopyEndResults_steps :
    let mem : DWord → TensorDesc := fun a => ⟨a, 0, 1, 2, [1], [], 0⟩
    let x : TensorDesc := ⟨0x100, 1, 1, 2, [1], [], 0⟩
    let ok := fun (p : State × CopyCmd) => (p.1.copy? 0 == some p.2) && p.2.ended.isNone && p.2.begun && p.2.resumeFrom.isNone &&
      decide (p.2.pos < p.2.total) && decide (p.2.src.esz ≤ 4) && p.2.pos % p.2.dst.es == 0 && p.2.pos % p.2.src.es == 0 &&
      (p.1.block? 0).isSome && SMap.wf (p.1.block 0).xbuf && decide ((p.1.copies.map (·.id)).Nodup) &&
      match (readUnit p.1 p.2).2 with
      | .ok d => d.1.all (fun b => b.length == 4) && (d.2.2.isSome || p.2.src.space == 1)
      | .error _ => false
    let m := copying .tcpy (mem 0x5000) (mem 0x6000)
    let i := copying .tcpy (mem 0x5000) x
    let o := copying .tcpy x (mem 0x6000)
    let f := copying .pfetch (mem 0x5000) TensorDesc.none
    ok m = true ∧ ok i = true ∧ ok o = true ∧ o.2.src.sizes.headD 0 * o.2.src.es = o.2.total ∧ i.2.dst.sizes ≠ [] ∧
    [m, o].all (fun p => match checkUnit (readUnit p.1 p.2).1 p.2 with
      | (z, .ok xs) => xs.all (fun y => y.pte.bidx == 0 && y.pte.cpol != 2 && decide (paTier y.pa ≤ 2) && !z.remote y.pa)
      | _ => false) = true ∧
    (f.1.copy? 0 == some f.2) = true ∧ f.2.unitElems = [0] ∧ f.2.pos < f.2.total ∧
    (match engineCheck f.1 f.2.agent (f.2.src.addr 0) f.2.src.es false with
      | (z, .ok y) => decide (paTier y.pa ≤ 1) && !z.remote y.pa
      | _ => false) = true := by decide +kernel
/-- R450: one step copies the element and passes it. -/
theorem test_copyStep :
    let mem : DWord → TensorDesc := fun a => ⟨a, 0, 1, 2, [1], [], 0⟩
    let m := copyStep (copying .tcpy (mem 0x5000) (mem 0x6000)).1 0
    let i := copyStep (copying .tcpy (mem 0x5000) ⟨0x100, 1, 1, 2, [1], [], 0⟩).1 0
    byteAt m 0x6000 = 0x5A ∧ (xRead i 0 0x100 1).map (·.toNat) = [0x5A] ∧ (m.copy? 0).map (·.pos) = some 4 := by decide +kernel
/-- COLL_START of an all-reduce of one FP32 element by two members, whose flag has reached its target; and one whose
record does not pass. The result is the sum (R310). -/
def collecting : State × CopyCmd × CollRec :=
  let r : CollRec := ⟨0, 0, 0, 7, 2, 0x3000, 1, false⟩
  let k : CopyCmd := { cmd 0 none none false with kind := .coll, src := ⟨0x5000, 0, 1, 2, [1], [], 0⟩, coll := some r }
  let s := { mapped [thr 0 .copy []] [0] [(0x3000, 1), (0x5002, 0x80), (0x5003, 0x3F)] with copies := [k], live := [0, 1] }
  (s, k, r)
theorem wit_CopyEndResults_coll :
    let s := collecting.1
    let k := collecting.2.1
    let r := collecting.2.2
    let u := s.modCopy 0 (fun k => { k with begun := true })
    let f := collFlag u k r
    let b := collRead f.1 k
    let peers : List CollPeer := [⟨0, 0, 0, 1, 3, [0x40000000], []⟩]
    (s.copy? 0 == some k) = true ∧ k.ended = none ∧ k.coll = some r ∧ k.begun = false ∧ collCheck s k r = none ∧
    peers.length + 1 = (memberSet u r.n).length ∧ peersAgree r k.src.count (setCode (memberSet u r.n)) peers = true ∧
    (match f.2, b.2 with
     | .ok true, .ok x => x == ([0x3F800000], [])
     | _, _ => false) = true ∧
    (collWrite b.1 { k with begun := true } [collElem r k.src.count [[0x3F800000], [0x40000000]] 0 0]
      (collMarked r k.src.count [[], []])).2.2 = none ∧ collsRunning s = 0 ∧
    (run (.collStart 0 [⟨0, 0, 0, 1, 3, [0x40000000], [0]⟩]) s).copies.map (·.ended) = [some (codeSrcPoison, cPoison)] ∧
    collCheck s k { r with op := 3 } = some (codeFormat, cFormat) ∧ r.started = false ∧
    (({ s with copies := { k with id := 5 } :: s.copies } : State).copies.any (fun (x : CopyCmd) =>
      x.kind == .coll && x.id < 6 && x.ended.isNone && !x.started)) = true ∧
    byteAt (run (.collStart 0 peers) s) 0x5002 = 0x40 ∧ byteAt (run (.collStart 0 peers) s) 0x5003 = 0x40 := by decide +kernel
/-- R391's second step applies behind the 64 limit too: a command that waits ends with FORMAT where its peers' fields
differ. -/
theorem test_coll_mismatch_waiting :
    let p := collecting
    let k := { p.2.1 with id := 6 }
    let s := { p.1 with copies := [{ p.2.1 with id := 5, coll := some { p.2.2 with id := 1 } }, k] }
    (run (.collStart 6 [⟨0, 0, 0, 2, 3, [], []⟩]) s).copies.map (·.ended) = [none, some (codeFormat, cFormat)] ∧
    (run (.collStart 6 [⟨0, 0, 0, 1, 3, [0x40000000], []⟩]) s).copies.map (·.ended) = [none, none] := by decide +kernel

/-! ### The matrix engine and residues -/

theorem wit_MatrixThreadResults :
    let acc := fun (w : FForm) (s : State) (c q : Nat) => decide ((readWord s c q w.a).toNat ≤ 31) && ((s.block c).quad? w.num5).isNone
    let row := fun (w : FForm) (s : State) (c q : Nat) => decide ((readWord s c q w.a).toNat ≤ 31)
    let cw := fun (w : FForm) (s : State) (c q : Nat) => (checkAligned s (s.agent c) (readPair s c q w.b) 8 needW 2).2.toBool
    let a := T (.v 8) (.v 2) .zero .zero .bf16 3
    let x := F .zero (.v 6) (.v 7) .zero .f32 9
    let m := F .zero (.v 2) (.v 4) .zero .i8
    meets (.accrd a) (acc a) (one .epi [(2, 31)]) = true ∧ meets (.accwr x) (row x) (one .epi [(6, 31)]) = true ∧
    ([.mzero (F .zero (.v 3) .zero .zero .i8 9), .mzeroAuto (F .zero .zero .zero .zero .i8 0x409)] : List Instr).all
      (fun i => meets i always (one .epi [])) = true ∧
    meets (.mzeroRns (F .zero .zero .zero .zero .i8 0x804)) (fun s c q => profileOf s c q != 0 && 4 % 4 == 0)
      (let s := one .epi []
       { s with blocks := s.blocks.map (fun b => ({ b with rnsCfg := 2 } : Block)) }) = true ∧
    meets (.mstart m) (cw m) (mapped [thr 0 .feed [(2, 40), (4, 0x2000)]] [0] []) = true ∧
    meets (.mstartResume { m with a := .zero, sub := 0x80 }) (cw m) (mapped [thr 0 .feed [(4, 0x2000)]] [0] []) = true := by
  decide +kernel
/-- ACCRD with .BND against an entry that only clamps, of its owner. -/
theorem wit_MatrixThreadResults_bounds :
    let chk := fun (w : FForm) (s : State) (c q : Nat) =>
      let b := s.block c
      let k := 32 * (readWord s c q w.a).toNat + laneOf q
      let y := (fmtOf w.ty).encode .rne w.sat (elemValue (accElem b w.num5 k) (accExp b w.num5))
      boundCheck s (cohortOf c) ((readWord s c q w.b).toNat % 4096) false ((fmtOf w.ty).decode y.1)
    let a := T (.v 8) (.v 2) (.v 3) .zero .bf16 0x403
    let bok := fun (get : Bool) (w : FForm) (s : State) (c q : Nat) =>
      let n := (readWord s c q w.a).toNat % 4096
      let xb := (readWord s c q w.b).toNat
      xb % 16 == 0 && decide (xb ≤ 0x1FFFF0) && bndEnabled s && (s.block c).ctx != 0 &&
        (SMap.get s.bndown n).toNat == (s.block c).ctx && (get || !xPoisoned s c xb 16)
    let w := F .zero (.v 6) (.v 7) .zero .i8
    meets (.accrd a) (fun s c q => (chk a s c q).2.1 != .trap) { bounded with threads := [thr 0 .epi [(3, 9)]] } = true ∧
    meets (.bndset w) (bok false w) bounded = true ∧ meets (.bndsetKh { w with sub := 0x100 }) (bok false w) bounded = true ∧
    meets (.bndsetGet { w with sub := 0x200 }) (bok true w) bounded = true := by decide +kernel
/-- TLD of a BF16 row, and of a residue row under profile 2. -/
theorem wit_MatrixThreadResults_tld :
    let ok := fun (w : IForm) (s : State) (c q : Nat) =>
      let ctl := (readPair s c q w.a).toNat / 2 ^ 32
      let fmt := ctl % 64
      let geo := ctl / 2 ^ 8 % 16
      tileFmtOk fmt && (if fmt = 0x1C then profileOf s c q != 0 && geo == profileOf s c q else geo == 0) &&
        match xCheck s c w.plc ((readPair s c q w.a).setWidth 32) w.imm 64 64 with
        | .ok x => fmt != 0x1C || decide (x.2 + (profileOf s c q + 3) * kEff (s.coreRec c) (profileOf s c q) ≤ 0x200000)
        | .error _ => false
    let w := I (.v 3) (.v 10) 0 0
    let r := one .feed [(10, 0x4000), (11, 0x0500021C)]
    meets (.tld w) (ok w) (one .feed [(10, 0x4000), (11, 0x0500000A)]) = true ∧
    meets (.tld w) (ok w) { r with blocks := r.blocks.map (fun b => ({ b with rnsCfg := 2 } : Block)) } = true := by decide +kernel
/-- The four plans of MMAD, and the sequencer states that the other clauses name. -/
theorem wit_StreamWordResults :
    let isPlan := fun (n : Nat) (p : MmadPlan) => match p with
      | .format => n == 0
      | .poison => n == 1
      | .chunk _ => n == 2
      | .residue _ => n == 3
    let b := { Block.blank 0 with tileFmt := [(5, 0x0A)], wfmt := [(1, 0x0A)] }
    let r := { Block.blank 0 with
      tileFmt := [(3, 0x1C)], tileGeo := [(3, 2)], tileKeff := [(3, 15)], wfmt := [(1, 0x1C)], wgeo := [(1, 2)], rnsCfg := 2 }
    isPlan 0 (planMmad (Block.blank 0) 5 0x10000) = true ∧ isPlan 2 (planMmad b 5 0x10000) = true ∧
    isPlan 1 (planMmad { b with tilePoison := [32 * 5] } 5 0x10000) = true ∧
    isPlan 0 (planRns r (CoreRec.blank 0) 0 3 0x10000) = true ∧
    isPlan 3 (planRns { r with quads := [⟨0, 2, 0x303, 0, [], []⟩] } (CoreRec.blank 0) 0 3 0x10000) = true ∧
    (seqAt Seq.blank).actor = .seq 0 ∧ Seq.blank.ready ≤ (seqAt Seq.blank).clock ∧
    ({ Seq.blank with armed := some 4 } : Seq).armed = some (T .zero .zero .zero .zero .i8 0x204).num5 ∧ Seq.blank.armed = none := by decide +kernel
/-- R127's example of a renormalisation: element (5, 5) holds 2^46 + 300 under E = −37 and a chunk brings 512. -/
theorem test_chunk_renormalises :
    let z : Chunk := ⟨0, 0, none, 0⟩
    let cs := List.replicate 165 z ++ ⟨512, 0, some 9, 0⟩ :: List.replicate 858 z
    let b := setAccElem (setAccElem (setAccExp (Block.blank 0) 3 (-37) false) 3 165 ⟨2 ^ 46 + 300, 0⟩) 3 0 ⟨1700807049218, 0⟩
    let r := applyChunk b 3 cs
    cs.length = 1024 ∧ SMap.wf b.accM = true ∧ SMap.wf b.accSt = true ∧ SMap.wf b.accE = true ∧ (∀ c ∈ cs, c.spec ≤ 3) ∧
    r.2 = 1 ∧ accExp r.1 3 = -29 ∧ accElem r.1 3 165 = ⟨2 ^ 39 + 1, 0⟩ ∧ accElem r.1 3 0 = ⟨99 * 2 ^ 26, 0⟩ := by decide +kernel
/-- The same example's first chunk, of 12.375 + 3 × 2^−38: rounded to even under E = −37, in both signs. -/
theorem test_chunk_rounds :
    let c := fun (s : Bool) => chunkOf [.fin s 99 (-3), .fin s 3 (-38)]
    (c false).top = some 3 ∧ (c false).spec = 0 ∧ roundWindow (c false).m (c false).e (-37) = 1700807049218 ∧
    roundWindow (c true).m (c true).e (-37) = -1700807049218 ∧
    (chunkOf [.inf false, .zero true, .inf true]).spec = 3 ∧ (chunkOf [.inf true, .fin false 1 0]).spec = 2 := by decide
/-- R233: the agenda runs the event, with no actor; a stopped stream's arrival that is owed then arrives. -/
theorem test_stoppedSeqArrival :
    let s := { seqAt Seq.blank with actor := .none, clock := 9, blocks := [{ Block.blank 0 with
      seq := { Seq.blank with state := .stopped, owed := [(4, 3), (4, 9)] } }] }
    let t := run (.stoppedSeqArrival 0 4) s
    (t.block 0).seq.owed = [(4, 9)] ∧ barrierPhase t 0 4 = true ∧
    ((run (.stoppedSeqArrival 0 4) t).block 0).seq.owed = [(4, 9)] := by decide +kernel
theorem wit_ResidueResults :
    let at' := fun (w : FForm) (s : State) (c q : Nat) => let a := (readWord s c q w.a).toNat; a % 16 == 0 && decide (a ≤ 0x1FFFF0)
    let addrs := fun (w : FForm) (s : State) (c q : Nat) => (List.range (profileOf s c q + 3)).map (fun k =>
      (readWord s c q w.b + BitVec.ofNat 32 k * readWord s c q w.c).toNat)
    let n := fun (w : FForm) (s : State) (c q : Nat) => profileOf s c q != 0 && (addrs w s c q).all (fun a => decide (a ≤ 0x1FFFFF))
    let set := fun (s : State) (c q : Nat) => profileOk (s.coreRec c) ((readWord s c q (.v 6)).toNat % 16)
    let g := F .zero (.v 6) .zero .zero .i8 0x400
    let f := F .zero (.v 4) (.v 5) (.v 11) .i32
    meets (.rnscfgSet { g with sub := 0 }) set (one .gen [(6, 2)]) = true ∧ meets (.rnscfgGet g) (at' g) (residue [(6, 0x1FFFF0)]) = true ∧
    meets (.rnschk (T (.v 20) (.v 12) .zero .zero .i8)) (fun s c q => profileOf s c q != 0) (residue []) = true ∧
    meets (.rnsf f) (n f) (residue [(4, 0xFFFFFC18), (5, 0x100), (11, 0x1000)]) = true := by decide +kernel
/-- RNSR of row 31 of a quad in residue mode. -/
theorem wit_ResidueResults_rnsr :
    let ok := fun (w : FForm) (s : State) (c q : Nat) =>
      let row := (readWord s c q w.a).toNat
      decide (row ≤ 31) && match (s.block c).quad? w.num5 with
        | some u =>
          let g := guarded u.d u.ktotal.toNat (SMap.get u.ea row).toNat (SMap.get u.eb (laneOf q)).toNat
          (applyPolicy s c q ((s.block c).rnsAt s.clock (some q)).toNat
            (reverse u.d u.chset.toNat g (quadResidue (s.block c) u.q row (laneOf q))) g u.d).2.toBool
        | none => false
    let w := T (.v 16) (.v 6) .zero .zero .i8
    let s := one .epi [(6, 31)]
    meets (.rnsr w) (ok w) { s with blocks := s.blocks.map (fun b =>
      ({ b with rnsCfg := 2, quads := [⟨0, 2, 0x303, 0, [], []⟩] } : Block)) } = true := by decide +kernel

/-! ### Events -/

/-- A byte posted to 0x2000. -/
def posted5 : Posted := ⟨0x2000, [5], none, 0x2000, 2, false, false, false⟩

/-- The package after boot. -/
def upState (s : State) : State := { s with regs := { s.regs with bootStage := 5 } }

/-- A suspended thread, one with a posted write, one with two results under tag 3, and one aged 3,600. -/
def sched : State :=
  let p : Pending := { emptyResult 3 5 (.v 8) 1 with kind := 1 }
  upState <| blk [{ thr 0 .gen [] with susp := .fault 0x7000 0x10210 }, { thr 1 .gen [] with posted := [posted5] },
    { thr 2 .gen [] with pend := [{ p with tag := 2 }, p, p], age := 3600 }] []
/-- R192's example of R190 and R191: the address under 32 channels, and with channel 17 of its stack retired. -/
theorem test_hbm_place :
    let a := 0x00C0005321084A40
    let s := State.reset
    let t := { s with chanDead := [(5, 17)] }
    (s.sliceOf a, hbmPlace (s.localByte a)) = (165, ⟨12816, 576, 0, 0, 1⟩) ∧
    (t.sliceOf a, hbmPlace (t.localByte a)) = (162, ⟨13229, 576, 3, 2, 1⟩) := by decide
theorem wit_SchedulingEventResults :
    ((sched.thread 0 2).pend.find? (fun p => p.tag == 3 && !p.arrived)).isSome = true ∧
    (sched.thread? 0 2).isSome = true ∧ sched.up = true ∧ sched.halted = false ∧ State.reset.up = false ∧ (sched.thread 0 1).posted = [posted5] ∧
    (State.reset.threads.filter (fun t => t.core == 0 && quarterOf t.slot == 0)).any (fun t => ready State.reset t) = false ∧
    fresumeTargets sched (BitVec.ofNat 64 (2 ^ 48)) = some (0, false, [0]) := by decide
theorem test_scheduling :
    ((run (.resultArrival 0 2 3 0) sched).thread 0 2).pend.map (·.arrived) = [false, true, false] ∧
    ((run (.agePromotion 0 2) sched).thread 0 2).promoted = true ∧
    ((run (.fresumeRetry (BitVec.ofNat 64 (2 ^ 48))) sched).thread 0 0).susp = .none ∧
    byteAt (run (.postedWriteAck 0 1) sched) 0x2000 = 5 := by decide +kernel

/-- A core with one region in its L1, in set 3; an invalidation record; stack 0 with 16 channels left. -/
def evented : State :=
  let s := mapped [] [] []
  { s with cores := [{ CoreRec.blank 0 with sectors := [⟨16 * 0x103, 0, 0, 0, 0, none, false⟩] }], invFifo := [0x3000] }
theorem wit_MemoryEventResults :
    let s := evented
    (regionsIn (s.coreRec 0) (0x103 % 256)).contains 0x103 = true ∧ (0x2000#64).toNat < 2 ^ 52 ∧
    (match (walkFrom s 0x2000 3 1 (s.agent 0).table).2 with
      | .leaf e level _ => e.r && level == 1
      | .fail _ _ => false) = true ∧
    s.invFifo = [0x3000] ∧ s.chanDead.contains (0, 0) = false ∧ 16 < s.numChannels 0 ∧
    ({ s with chanDead := (List.range 16).map (fun c => (0, c)) } : State).numChannels 0 ≤ 16 ∧
    ({ s with chanDead := (List.range 16).map (fun c => (0, c)) } : State).chanDead.contains (0, 16) = false ∧
    s.rested = true ∧ s.memWf = true ∧ (sched.thread 0 1).posted[0]? = some posted5 ∧
    (let d : Delta := ⟨0x2000, 0, .n32, 5, 0, true⟩
     sectorPoisoned s d.addr = false ∧ sectorPoisoned { s with poison := [0x2000 / 32] } d.addr = true ∧
     (applyDelta s d).poison = [0x2000 / 32]) ∧
    (let tx : Tx := ⟨1, 4, 20, 0, 0, none, 0, [⟨9, 0, 0, false⟩], [⟨8, 0, 1, 0x55, false⟩]⟩
     let u := run (.uncorrectableError (.txWrite 0 0 0)) (run (.uncorrectableError (.txRead 0 0 0))
       (blk [{ thr 0 .gen [] with tx := some tx }] []))
     ((u.thread 0 0).tx.map (fun x => (x.reads.map (·.poison), x.writes.map (·.poison)))) = some ([true], [true])) ∧
    ((sched.thread 0 2).pend.find? (fun p => p.tag == 3)).isSome = true ∧ 16383 < counterCount .bank ∧ s.counter .bank 0 < 0xFFFF ∧ s.counter .bank 0 + 1 < 16 := by decide +kernel
/-- At the mark one record goes out and the counter stands at half of it (R288); a record of zeros invalidates all of
one page and completes with 1 in no word. -/
theorem test_memoryEvents :
    let m := (evented.leakOf .bank).2
    let s := evented.setCounter .bank 5 (m - 1)
    let t := run (.correctedError .bank 5 0) s
    (s.counter .bank 5 + 1 == m) = true ∧ t.counter .bank 5 = m / 2 ∧ t.notices.length = 1 ∧
    (run .invalidationComplete s).invFifo = [] ∧
    (run (.l1Eviction 0 0x103) s).cores.map (·.sectors) = [[]] := by decide +kernel

/-! Routes and rectangles -/

/-- A route with the waypoints 0 and 1; the records of 512 bytes lie at 0x40000, and 1 waits on 0. Waypoint 0 runs one
GEN row of registers v0 to v7 on one core, and names 1 as its successor. -/
def routed (st launched alive thresh tail : Nat) : State :=
  let s := mapped [] [] []
  let m := [(0x4000C, 1), (0x4000D, 1), (0x40028, 0x80), (0x4002B, 1), (0x4002C, 8), (0x40170, st),
    (0x40171, alive), (0x40174, launched), (0x40138, 4), (0x4013A, thresh), (0x40144, tail), (0x400A0, 1), (0x400AA, 6), (0x60000, 1), (0x40204, 1),
    -- the bind record
    (0x70002, 4), (0x7000C, 7), (0x7000E, 5), (0x70012, 1), (0x70018, 2), (0x70023, 1),
    -- a route header: N = 1, context 2, waypoints at 0x41000, table at 0x10000
    (0x71000, 1), (0x71004, 2), (0x71009, 0x10), (0x7100A, 4), (0x7101A, 1)]
  { s with
    mem := m.foldl (fun m x => SMap.set m x.1 (BitVec.ofNat 8 x.2)) s.mem
    routes := [⟨0, 3, 0x30000, 2, 2, 0x40000, 0x10000, 0x50000, 4, 0, 0, false, false, [], []⟩] }

theorem wit_DispatchEventResults_route :
    let s := routed 0 0 0 0 0
    let h := { s with rqFifo := [(3, 0x71000)] }
    (h.rqFifo.filter (fun r => r.1 == 3)).length < 64 ∧
    h.rqFifo.find? (fun r => r.1 == 3) = some (3, 0x71000) ∧
    (match readHeader h 0x71000 with
      | (u, some x) => !u.headerBad x && x.n == 1
      | _ => false) = true := by decide +kernel
/-- Bytes of a state's memory. -/
def poke (s : State) (m : List (Nat × Nat)) : State :=
  { s with mem := m.foldl (fun m x => SMap.set m x.1 (BitVec.ofNat 8 x.2)) s.mem }
/-- A COPY waypoint's record at an address that is only 8-byte aligned is read (R308), also across two pages. -/
theorem test_listCommand_alignment :
    let t := poke (routed 0 0 0 0 0) [(0x72008, 0x40), (0x7200A, 7), (0x72010, 0x80), (0x72012, 7)]
    (match t.route? 0 with
      | some r => (listCommand t r 0 0 0x72008).copies.map (fun (k : CopyCmd) => (k.desc.toNat, k.ended.isNone))
      | none => []) = [(0x70040, true)] ∧
    pageParts 0x1FFF8 32 = [(0x1FFF8, 8), (0x20000, 24)] := by decide +kernel
/-- A route leaves its FIFO once its waypoints of PREDCNT 0 have been evaluated (R254): the instance stands in ready
order. -/
theorem test_routeStart :
    let s := poke (upState { routed 0 0 0 0 0 with rqFifo := [(3, 0x71000)], routes := [] }) [(0x71009, 0)]
    let t := run (.routeStart 3) s
    t.rqFifo = [] ∧ t.routes.length = 1 ∧ t.ready.map (fun r => (r.wp, r.queue)) = [(0, 3)] := by decide +kernel
/-- One instance; a full batch of a record queue; the partial batch at its end. -/
theorem wit_DispatchEventResults_waypoint :
    let ok := fun (s : State) => match s.route? 0 with
      | some r =>
        let x := readWp s r.id 0
        let w := x.2
        let f := readFlags x.1 r 0 w.flags
        (w.state == 0 || w.state == 2) && decide (0 < r.n) && !r.failedWps.contains 0 && w.predCnt == 0 && f.2.isNone &&
          f.1.allMet r.id 0 w
      | none => false
    let wp := fun (s : State) => (readWp s 0 0).2
    let a := routed 0 0 0 0 0
    let b := routed 2 1 0 4 5
    let c := routed 2 1 0 4 3
    ok a = true ∧ (wp a).ring.thresh = 0 ∧ (wp a).launched = 0 ∧
    ok b = true ∧ (wp b).ring.thresh ≠ 0 ∧ (wp b).ring.thresh ≤ (wp b).avail ∧ (wp b).alive < (wp b).maxInst ∧
    ok c = true ∧ 0 < (wp c).avail ∧ (wp c).avail < (wp c).ring.thresh ∧ (wp c).alive = 0 ∧
    [a, b, c].all (fun s => (wp s).kind == 0 && decide ((wp s).ring.thresh ≤ 2 ^ (wp s).ring.capLog)) = true ∧
    (let d := routed 0 0 0 17 0
     ok d = true ∧ 2 ^ (wp d).ring.capLog < (wp d).ring.thresh ∧
     (run (.waypointEvaluate 0 0) d).agenda = [.waypointComplete 0 0]) := by decide +kernel
/-- After the last instance; after a failed one. The successor's count goes down and it is looked at. -/
theorem wit_DispatchEventResults_complete :
    let s := routed 2 1 0 0 0
    let f := { s with routes := s.routes.map (fun r => { r with failedWps := [0] }) }
    let w := (readWp s 0 0).2
    (s.route? 0).isSome = true ∧ w.state ≠ 3 ∧ w.state ≠ 4 ∧ w.alive = 0 ∧ w.ring.thresh = 0 ∧ w.launched ≠ 0 ∧
    (f.route? 0).map (·.failedWps) = some [0] ∧ (readWp f 0 0).2.alive = 0 ∧
    (let t := run (.waypointComplete 0 0) s
     (readWp t 0 0).2.state = 3 ∧ (readWp t 0 1).2.predCnt = 0 ∧ t.agenda = [.waypointEvaluate 0 1]) := by decide +kernel
/-- A one-core rectangle that is bound; its 32 threads. -/
theorem wit_DispatchEventResults_bind :
    let s := upState (routed 1 1 1 0 0)
    s.up = true ∧ State.reset.up = false ∧
    (let r := physRead s 0x70000 64
    let b := parseBind r.2.1
    (match r.1.wpAt b.wpAddr with
      | some (x, i) =>
        let w := (readWp r.1 x.id i).2
        let args := readArgs r.1 b w
        decide (b.x0 + w.rectW ≤ 24 ∧ b.y0 + w.rectH ≤ 16) && (b.cells w).all (fun c => (r.1.slotEntry c.1).state == 0) &&
          !launchBad w && r.1.tableOk b.table && args.2.isSome && (allImages args.1 b w).2.isSome &&
          (launchThreads 5 w.roles).length == 32
      | none => false) = true) := by decide +kernel
/-- The same rectangle bound: pre-empted by its tag, and, when its last thread has ended, retired; one block of two that
ends first. -/
def boundRect : State :=
  let s := routed 1 1 1 0 0
  let b := { Block.blank 5 with rect := 7, route := 0, wp := 0 }
  { s with
    threads := [{ thr 0 .gen [] with core := 5, live := false }]
    blocks := s.blocks ++ [b, { b with core := 6 }]
    slots := [⟨5, 7, 2, 0, 0x40000⟩] }
theorem wit_DispatchEventResults_end :
    let s := boundRect
    let two := { s with slots := s.slots ++ [⟨6, 7, 2, 0, 0x40000⟩] }
    let b := s.block 5
    let over' := fun (s : State) =>
      let u := departCore (s.modBlock 5 (fun b => { b with retired := true })) 5
      (u.rectCores b.rect).map (fun k => (u.block k).retired)
    ((physRead s 0x7000C 16).1.rectCores ((physRead s 0x7000C 16).2.1 % 2 ^ 16)) ≠ [] ∧
    s.block? 5 = some b ∧ blockOver s b = true ∧ over' s = [true] ∧ over' two = [true, false] ∧
    (s.route? b.route).isSome = true ∧
    (run (.blockRetire 5) s).agenda = [.waypointEvaluate 0 0, .waypointComplete 0 0] := by decide +kernel
theorem quiet_obtain (s : State) (a n g : Nat) (h : ∀ r ∈ s.cores, r.sectors = [] ∧ r.updates = []) :
    (obtain s a n g).poison = s.poison ∧ (obtain s a n g).cores = s.cores := by
  have skip : ∀ (l : List CoreRec) (f : State → CoreRec → State) (u : State),
      (∀ r ∈ l, ∀ u, f u r = u) → l.foldl f u = u := by
    intro l f u hl
    induction l with
    | nil => rfl
    | cons r l ih => rw [List.foldl_cons, hl r (by simp) u]; exact ih (fun x hx => hl x (by simp [hx]))
  have dirty : ∀ u : State, u.cores = s.cores → ∀ lo hi, obtainDirty u lo hi = u := by
    intro u hu lo hi
    refine skip _ _ _ (fun r hr u => ?_)
    simp [(h r (hu ▸ hr)).1]
  have deltas : ∀ u : State, u.cores = s.cores → ∀ lo hi, obtainDeltas u lo hi = u := by
    intro u hu lo hi
    have none' : u.cores.filter (fun r => r.updates.any (fun x => x.deltas.any (fun d =>
        decide (lo ≤ d.addr) && decide (d.addr < hi)))) = [] := by
      rw [List.filter_eq_nil_iff]
      intro r hr
      simp [(h r (hu ▸ hr)).2]
    simp only [obtainDeltas, none']
  have evict : ∀ (u : State) (e : Nat × Nat), (evictLine u e).poison = u.poison ∧ (evictLine u e).cores = u.cores :=
    fun _ _ => ⟨rfl, rfl⟩
  have room : ∀ sl set, (sliceRoom s sl set).poison = s.poison ∧ (sliceRoom s sl set).cores = s.cores := by
    intro sl set
    unfold sliceRoom
    dsimp only
    split
    · exact ⟨rfl, rfl⟩
    · exact evict _ _
  have touch : (touchLine s a).poison = s.poison ∧ (touchLine s a).cores = s.cores := by
    unfold touchLine
    split
    · exact ⟨rfl, rfl⟩
    · exact room _ _
  have put : ∀ (u : State) k x d, (putBorrow u k x d).poison = u.poison ∧ (putBorrow u k x d).cores = u.cores := by
    intro u k x d
    unfold putBorrow
    split <;> exact ⟨rfl, rfl⟩
  have puts : ∀ (l : List Nat) (u : State), (l.foldl (fun s k => putBorrow s k (borrowSector s k) false) u).poison = u.poison ∧
      (l.foldl (fun s k => putBorrow s k (borrowSector s k) false) u).cores = u.cores := by
    intro l
    induction l with
    | nil => intro u; exact ⟨rfl, rfl⟩
    | cons k l ih => intro u; rw [List.foldl_cons, (ih _).1, (ih _).2, (put _ _ _ _).1, (put _ _ _ _).2]; exact ⟨rfl, rfl⟩
  unfold obtain gather
  dsimp only
  rw [dirty _ touch.2, deltas _ touch.2]
  split
  · rw [(puts _ _).1, (puts _ _).2]; exact touch
  · exact touch
theorem quiet_image (s : State) (img : List Nat) (roles : List RoleRow) (hp : s.poison = [])
    (h : ∀ r ∈ s.cores, r.sectors = [] ∧ r.updates = []) : resumePoisoned s img roles = false := by
  have pages : ∀ (l : List Nat) (u : State), u.poison = [] → (∀ r ∈ u.cores, r.sectors = [] ∧ r.updates = []) →
      (l.foldl (fun s p => obtain s p 65536 2) u).poison = [] := by
    intro l
    induction l with
    | nil => intro u hu _; exact hu
    | cons p l ih =>
      intro u hu hc
      have q := quiet_obtain u p 65536 2 hc
      exact ih _ (q.1.trans hu) (q.2 ▸ hc)
  simp [resumePoisoned, pages img s hp h]
/-- The bind record of `routed` as a resumption: its images and roles. -/
def resumeCase : Option (State × List (List Nat) × List RoleRow) :=
  let r := physRead (upState (routed 1 1 1 0 0)) 0x70000 64
  let b := { parseBind r.2.1 with resume := true }
  (r.1.wpAt b.wpAddr).bind (fun x =>
    let w := (readWp r.1 x.1.id x.2).2
    let i := allImages r.1 b w
    i.2.map (fun ps => (i.1, ps, w.roles)))
theorem resumeCase_quiet : resumeCase.any (fun x =>
    x.1.poison == [] && x.1.cores.all (fun r => decide (r.sectors = [] ∧ r.updates = [])) &&
      x.2.1.all (fun img => (roleSlots x.2.2).all (fun y => !threadRefused x.1 img y))) = true := by decide +kernel
/-- An image of zeros, in which every thread has ended, resumes. -/
theorem wit_DispatchEventResults_resume : ∃ x, resumeCase = some x ∧
    x.2.1.any (fun img => resumeRefused x.1 img x.2.2) = false := by
  have h := resumeCase_quiet
  rw [Option.any_eq_true] at h
  obtain ⟨x, hx, h⟩ := h
  simp only [Bool.and_eq_true, List.all_eq_true, beq_iff_eq, decide_eq_true_eq] at h
  refine ⟨x, hx, ?_⟩
  rw [List.any_eq_false]
  intro img hi
  have h3 := h.2 img hi
  simp only [resumeRefused, quiet_image x.1 img x.2.2 h.1.1 h.1.2, Bool.false_or, List.any_eq_true, not_exists, not_and,
    Bool.not_eq_true]
  intro y hy
  simpa using h3 y hy
/-! Pod, lending, platform -/

/-- Package 0 with member 1, to which window 3 admits reads of 4 KiB at 0x2000 under key 0x123. -/
def podded : State :=
  let s := mapped [] [] [(0x2000, 0x5A)]
  { s with
    live := [0, 1]
    regs := { s.regs with podSet := true, bootStage := 5 }
    windows := SMap.set s.windows 3 (BitVec.ofNat 256
      (0x2000 * 2 ^ 192 + 0x1000 * 2 ^ 128 + 1 * 2 ^ 118 + 0x123 * 2 ^ 101 + 2 ^ 100 + 2 ^ 97)) }
theorem wit_PodEventResults :
    let s := podded
    let adm := fun (key a : Nat) (req : ReqKind) =>
      (List.range 256).any (fun w => windowAdmits (SMap.get s.windows w) 1 key a (reqSpan req).1 (reqSpan req).2)
    (1#10).toNat ≠ s.pkg ∧ s.live.contains (1#10).toNat = true ∧ s.live.contains (2#10).toNat = false ∧
    s.regs.podSet = true ∧ s.regs.bootStage = 5 ∧ s.halted = false ∧ (7#10).toNat ≠ s.pkg ∧ (0#10).toNat = s.pkg ∧
    State.reset.regs.podSet = false ∧ State.reset.ports.any (fun p => p.2.2) = false ∧
    adm 0x123 0x2FFC (.read 4) = true ∧ adm 0x123 0x2FFD (.read 4) = false ∧ adm 0x124 0x2000 (.read 4) = false ∧
    (let k := collecting.2.1
     let u := { s with parked := [(9, k)], copies := [k] }
     u.parked.any (fun p => p.2.kind == .coll && p.2.ended.isNone && p.2.coll.any (fun r => (memberSet u r.n).contains 1)) = true ∧
     u.copies.any (fun k => k.kind == .coll && k.ended.isNone && k.coll.any (fun r => (memberSet u r.n).contains 1)) = true) ∧
    adm 0x123 0x2000 (.write [1]) = false ∧ s.remote 0x2FFC = false ∧ paTier 0x2FFC ≤ 1 ∧ s.hole 0x2FFC 4 = false := by
  decide +kernel
theorem test_pod :
    (run (.memberLoss 1) podded).live = [0] ∧ (run (.memberLoss 1) podded).lost = [1] ∧
    (run (.inboundRequest 1 0x123 0x2000 (.read 1)) podded).notices = [.response 1 true [0x5A]] ∧
    (run (.inboundRequest 1 0x123 0x3000 (.read 1)) podded).refusedIn = 1 ∧
    (run (.podid 5) State.reset).pkg = 5 ∧ (run (.linkTraining 2 4) podded).live.contains 4 = true ∧
    (run (.linkTraining 2 0) podded).ports = [(2, 0, false)] := by decide +kernel

/-- An OFFER of extent 5 to package 9 for three units, and an entry in each state. -/
def offer5 : DWord := BitVec.ofNat 64 (1 * 2 ^ 60 + 3 * 2 ^ 48 + 2 ^ 47 + 2 ^ 46 + 5 * 2 ^ 32 + 9)
def lent (state : Nat) : State :=
  { upState State.reset with cadastre := SMap.set [] 5 (BitVec.ofNat 128 (state + 2 ^ 17 + 5 * 2 ^ 19 + 9 * 2 ^ 32 + 7 * 2 ^ 48)) }
theorem wit_LenderEventResults :
    let c := parseLend offer5
    let pa := State.reset.extentBase 8191
    lp6Controller (pa + 0xFFFFFFF) = 7 ∧ lp6Controller (pa + 0x7FFF) = lp6Controller (pa + 0xFFFF) ∧
    lp6Local (pa + 0x7FFF) ≠ lp6Local (pa + 0xFFFF) ∧
    Config.lp6 = true ∧ c.op = 1 ∧ c.term ≠ 0 ∧ c.ext = 5 ∧ cadState ((upState State.reset).cad 5) = 0 ∧
    (upState State.reset).up = true ∧ State.reset.up = false ∧ (lent 2).up = true ∧
    [0, 1, 2, 3, 4, 5].map (fun n => cadState ((lent n).cad 5)) = [0, 1, 2, 3, 4, 5] ∧
    (let e := (lent 2).cad 5
     let k := reqSpan (.read 32)
     cadBorrower e = (9#16).toNat ∧ 2 ^ 28 - 32 + k.1 ≤ 2 ^ 28 ∧ k.2 = 0 ∧ cadPr e = true ∧ cadPw e = false) := by decide
/-- R298: an OFFER of an extent that is not FREE answers 1, an operation that is none of the three 2. -/
theorem test_lend_refused :
    let s := upState State.reset
    s.memWf = true ∧ 2 ^ 28 - 4 + 4 ≤ 2 ^ 28 ∧ (parseLend 0).op ≠ 1 ∧
    (run (.lendcmdOffer offer5) (lent 1)).regs.lendStat = 1 ∧ (run (.lendcmdOffer 0) s).regs.lendStat = 2 := by decide +kernel
/-- An entry of each kind on the borrower's side; a peer unheard for 10 ms or more, and one just heard. -/
def lease (state leased : Nat) : State :=
  { upState State.reset with
    borrowLines := [⟨(mkPa 0 2 (4 * 2 ^ 28)) / 32 + 3, 9, true⟩]
    manager := some 9
    standby := some 3
    attested := [3, 9]
    borrowed := SMap.set [] 4 (BitVec.ofNat 128 (state + 2 ^ 17 + 5 * 2 ^ 19 + 9 * 2 ^ 32 + leased * 2 ^ 48))
    timeUs := 20000, heard := [(8, 19999)] }
theorem wit_BorrowerEventResults :
    [0, 2, 3, 4, 5].map (fun n => beState ((lease n 0).borrow 4)) = [0, 2, 3, 4, 5] ∧ beLease ((lease 3 7).borrow 4) = 7 ∧
    (lease 2 7).up = true ∧ State.reset.up = false ∧ SMap.wf (lease 2 7).terms = true ∧ beLease ((lease 4 0).borrow 4) = 0 ∧
    beLease ((lease 0 7).borrow 4) ≠ 0 ∧ (lease 0 7).timeUs < 20001 ∧ 20000 ≤ (lease 0 7).timeUs ∧
    (lease 2 7).silent 8 = false ∧ (lease 2 7).silent 9 = true ∧ beLender ((lease 2 7).borrow 4) = 9 ∧
    SMap.wf (lease 2 7).borrowed = true ∧ beState ((run (.heartbeatLoss 9) (lease 2 7)).borrow 4) = 5 ∧
    ((run (.heartbeatLoss 9) (lease 2 7)).manager, (run (.heartbeatLoss 9) (lease 2 7)).standby) = (some 3, none) ∧
    (run (.heartbeatLoss 9) (lease 2 7)).borrowLines = [] ∧ (run (.heartbeatLoss 9) (lease 2 7)).poison.length = 1 ∧
    (run (.fabricManagerElection [7, 3, 5]) (lease 2 7)).manager = some 3 := by decide +kernel
/-- An image that boot accepts, and MGSEM held by the I3C port with its timer running. -/
def goodImage : BootImage := ⟨7, ⟨Config.keyDigest 0, true⟩, Config.minVersion⟩
def owned : State := { State.reset with regs := { State.reset.regs with mgOwner := ownerCode .mctpI3c, mgDeadlineUs := 5 } }
theorem wit_PlatformEventResults_boot : State.reset.regs.bootStage < 5 ∧ State.reset.regs.bootFail = none ∧
    (∃ i : Nat, i < 4 ∧ Config.keyDigest i = goodImage.signature.key ∧ Config.revoked.getLsbD i = false) ∧
    goodImage.signature.sigOk = true ∧
    Config.minVersion ≤ goodImage.version ∧ ({ goodImage with version := 0 } : BootImage).version < Config.minVersion ∧
    ({ goodImage.signature with sigOk := false } : ImageSignature).sigOk = false ∧ (upState State.reset).up = true ∧
    5 ≤ (upState State.reset).regs.bootStage := by
  refine ⟨by decide, by decide, ⟨0, by decide, rfl, by decide⟩, rfl, ?_⟩
  decide
/-- Also R322: of two requests in one clock the one that held MGSEM least recently wins. -/
theorem wit_PlatformEventResults :
    let s := State.reset
    s.regs.mgOwner = 0 ∧ owned.regs.mgOwner ≠ 0 ∧ owned.holds .mctpI3c = true ∧ owned.holds .kernel = false ∧
    ([.security, .kernel] : List Requester).filter (fun r => r != .security && (upState s).asks r) ≠ [] ∧
    SMap.wf s.mreg = true ∧ 32 ≤ 60 ∧ 60 ≤ 80 ∧
    (List.range 49)[60 - 32]? = some 28 ∧ 28 ≤ max 2000 (min 5000 (bits s.regs.pwrCap.toNat 15 0)) ∧
    (let l := { upState s with regs := { (upState s).regs with upEn := true }, live := [0, 1] }
     [.cxl 3, .mctpPcie, .mctpI3c, .pod 1].map (fun q => (l.reaches q, ({ l with halted := true } : State).reaches q,
       s.reaches q)) = [(true, false, false), (true, false, false), (true, true, true), (true, false, false)]) ∧
    s.regs.bootStage < 3 ∧ 3 ≤ (upState s).regs.bootStage ∧ (kernelStore s 0x1600000 8 0x10001).isSome = true ∧
    s.asks .mctpI3c = true ∧ s.asks .kernel = false ∧ (upState s).asks .kernel = true ∧ (upState s).up = true ∧
    (portRead s .kernel 0x1000000).isSome = true ∧ 0x1440000 ≤ 0x145FFFE ∧ 0x145FFFE < 0x1460000 ∧
    (writtenValue s 0x150000C 4 3000).map (fun x => (x.1, (configWrite owned x.1 x.2.2).isSome)) = some (0x150000C, true) ∧
    (writtenValue s 0x1600000 8 0x10001).map (fun x => (securityWrite s x.1 x.2.1 x.2.2).isSome) = some true ∧
    (kernelWrite { s with regs := { s.regs with fqTail := 3 } } 0x11000AC 2).map (fun t => decide (t.regs.fqTail ≠ t.regs.fqHead)) = some true ∧
    (writtenValue s 0x11000A0 8 0x10000).map (fun x => (x.1, (kernelWrite s x.1 x.2.2).isSome)) = some (0x11000A0, true) ∧
    s.hole 0x2000 8 = false ∧ s.remote 0x2000 = false ∧ s.halted = false ∧ s.hole (2 ^ 40) 8 = true ∧
    paTier (mkPa 0 3 0x1000000) = 3 ∧ s.hole (mkPa 0 3 0x1000000) 4 = false ∧
    paTier (mkPa 0 2 (4 * 2 ^ 28)) = 2 ∧ s.hole (mkPa 0 2 (4 * 2 ^ 28)) 8 = false ∧
    extentServes (lease 2 7) (mkPa 0 2 (4 * 2 ^ 28)) 0 = true ∧ extentServes (lease 2 7) (mkPa 0 2 (4 * 2 ^ 28)) 1 = false := by
  decide +kernel
/-- MGSEM's holder gives it up and another port is refused; RESETCMD takes its one value; a doorbell reads as zero. -/
theorem test_mgsem_release :
    (run (.mgsemRel .mctpI3c) owned).regs.mgOwner = 0 ∧ (run (.mgsemRel .mctpI3c) State.reset).notices.length = 1 ∧
    State.reset.holds .mctpI3c = false ∧ (run (.resetcmd .mctpI3c 0x5EA1) owned).regs.mgOwner = 0 ∧
    (run (.resetcmd .mctpI3c 5) owned).regs.mgOwner = owned.regs.mgOwner ∧
    portRead State.reset .mctpI3c 0x1100008 = some 0 ∧ portRead State.reset .mctpI3c 0x1500014 = some 0 := by decide +kernel
/-- R316's digest, on 64 times the letter a; the first bytes of FIPS 180-4's result, computed outside the model. -/
theorem test_sha256 :
    (sha256of64 (List.replicate 64 0x61)).take 8 = [0xFF, 0xE0, 0x54, 0xFE, 0x7A, 0xE0, 0xCB, 0x6D] := by decide +kernel
/-- A junction of 100 °C leaves what the power allows, and one of 115 °C halts (R324, R325); the
hold of MGSEM, and a write of PWRCAP by its holder (R321, R322). -/
theorem test_platform :
    let s := State.reset
    let watts := (List.range 49).map (fun i => 4000 + 100 * i)
    let linked := { upState s with regs := { (upState s).regs with upEn := true, mgLast := [.mctpPcie, .mctpI3c] } }
    (run (.mgsemAcq [.mctpI3c, .mctpPcie]) linked).regs.mgOwner = 1 ∧
    (run (.mgsemAcq [.mctpI3c, .mctpPcie]) { linked with halted := true }).regs.mgOwner = 2 ∧
    (run (.clockUpdate watts 100) s).regs.clkMHz = s.regs.clkMHz ∧ (run (.clockUpdate watts 115) s).halted = false ∧
    let s := upState s
    (run (.clockUpdate watts 100) s).regs.clkMHz = 1050 ∧
    ((run (.clockUpdate watts 114) s).halted, (run (.clockUpdate watts 115) s).halted) = (false, true) ∧
    (run (.registerWrite .mctpI3c 0x150000C 4 3000) owned).regs.pwrCap = 3000 ∧
    (run (.registerWrite .mctpI3c 0x150000C 4 3000) s).regs.pwrCap = 5000 := by decide +kernel

/-! Frames -/

theorem wit_RegisterWordsFrame :
    let s := one .gen [(5, 3)]
    let ok := fun (i : Instr) => mayIssue i s 0 0 && SMap.wf ((issueState i s 0 0).thread 0 0).regs &&
      decide (∀ l ∈ ((issueState i s 0 0).thread 0 0).loops, l.last ≠ ((issueState i s 0 0).thread 0 0).pc)
    s.actor = .party 0 [0] ∧
    ([.add (F (.v 4) (.v 5) (.v 5) .zero .i32), .lea (F (.v 4) (.v 6) (.v 5) .zero .i32),
      .fadd (F (.v 4) (.v 5) (.v 5) .zero .f32), .cmp (F .zero (.v 5) (.v 5) .zero .i32 1),
      .fdiv (T (.v 4) (.v 5) (.v 5) .zero .f32), .nop (F .zero .zero .zero .zero .i8), .movi (I (.v 4) .zero 0 7),
      .addImm (I (.v 4) (.v 5) 0x040 7), .bra k7 g0 1, .call k7 g0 1, .callx (F .zero (.v 6) .zero .zero .i8),
      .lbrk (F .zero .zero .zero .zero .i8)] : List Instr).all ok = true ∧
    ((issueState (.call k7 g0 1) s 0 0).thread 0 0).stack.length < 16 := by decide
theorem wit_MemoryWordsFrame :
    let quiet := fun (s : State) => s.rested && s.memWf && (s.thread 0 0).posted == [] && s.borrowLines == []
    let good := fun (i : Instr) (s : State) (tx : Bool) (n : Nat) (ok : Xlated → Bool)
        (acc : State → State × Except Stop Xlated) =>
      let r := acc (issueState i s 0 0)
      mayIssue i s 0 0 && guardOn i s 0 0 && match r.2 with
        | .ok x => (r.1.thread 0 0).tx.isSome == tx && !r.1.remote x.pa && decide (paTier x.pa ≤ 2) && x.pte.bidx == 0 &&
            quiet r.1 && x.pa % n == 0 && ok x
        | .error _ => false
    let any := fun (_ : Xlated) => true
    let at' := fun (n : Nat) (need : Need) (kind : Nat) (s : State) => threadAccess s 0 0 0x2008 n need kind
    let tx : Tx := ⟨1, 4, 20, 0, 0, none, 0, [], []⟩
    let s := mappedOne [(2, 0x2008), (7, 1)] []
    let t := { s with threads := s.threads.map (fun t => { t with tx := some tx }) }
    let p := mappedOne [(2, 0x2008), (7, 1)] [(0x10007, 0x08)]
    let l : Nat → IForm := fun sz => { I (.v 8) (.v 2) (BitVec.ofNat 9 sz) 0 with ctl := k0 }
    let st : Nat → IForm := fun sz => I (.v 9) (.v 2) (BitVec.ofNat 9 sz) 0
    let a := T (.v 6) (.v 2) (.v 7) .zero .n32
    let c := T (.v 6) (.v 2) (.v 7) (.v 8) .n32
    let d := F .zero (.v 2) (.v 7) .zero .n32 0x500
    let typed := fun (ok : PageFmt → Bool) (kind : Nat) (x : Xlated) =>
      (pageFmt x.pte.fmt x.pte.geo).any (fun f => (typedFault x.pte (some f) ok 0x2008 1 kind 0x2008 x.pa).isNone)
    good (.ld (l 0x080)) s false 4 any (at' 4 needR 1) = true ∧ good (.st (st 0x080)) s false 4 any (at' 4 needW 2) = true ∧
    good (.ld (l 0x0A0)) p false 4 (typed (fun f => laneOk f 0) 1)
      (fun u => threadSpans u 0 0 0x2008 (typedSpans (fun f => laneOk f 0) 0x2008 1 true) needR 1) = true ∧
    good (.st (st 0x0A0)) p false 4 (typed storeFmtOk 2)
      (fun u => threadSpans u 0 0 0x2008 (typedSpans storeFmtOk 0x2008 1 false) needW 2) = true ∧
    ([.atom a, .cas c] : List Instr).all (fun i => good i s false 4 (fun x =>
      (releaseFails s 0 0 (releaseScope (s.thread 0 0) a) 0x2008 x.pa).isNone) (at' 4 needRW 3)) = true ∧
    good (.red d) s false 4 (fun x => (releaseFails s 0 0 d.scope 0x2008 x.pa).isNone) (at' 4 needRW 3) = true ∧
    ([.ld (l 0x080)] : List Instr).all (fun i => good i t true 4 any (at' 4 needR 1)) = true ∧
    ([.st (st 0x080), .atom a, .cas c] : List Instr).all (fun i => good i t true 4 any (at' 4 needRW 3)) = true ∧
    ([.ld (l 0x080), .st (st 0x080), .atom a, .cas c] : List Instr).all (fun i => ((run i t).thread 0 0).tx.isSome) = true ∧
    (let x := T (.v 6) (.v 2) (.v 7) .zero .n32
     let u := issueState (.atomx x) s 0 0
     mayIssue (.atomx x) s 0 0 = true ∧ guardOn (.atomx x) s 0 0 = true ∧
     (xCheck u 0 (x.sub.getLsbD 0) (readWord u 0 0 x.a) 0 4 4).toBool = true ∧
     (releaseFails u 0 0 (u.thread 0 0).relFence 0x2008 0).isNone = true ∧ quiet u = true ∧
     SMap.wf (u.block 0).xbuf = true) := by decide +kernel

end Sys2Proof.Machine.Tests
end

/-! Operand delivery and the bypass latches: what each source operand reads (R65, R67, R69, R77, R79, R94), and the
obligation that says it. -/

namespace Sys2Proof.Machine

/-! ## Groups of registers (R69) -/

/-- The digit of a group at place i, in base 2^32, is the register i places on. -/
theorem readGroup_digit (s : State) (c q : Nat) (o : Opnd) {n i : Nat} (j : Nat) (h : i < n) :
    readGroup s c q o j n / 2 ^ (32 * i) % 2 ^ 32 = (readPart s c q o (j + i)).toNat := by
  induction n generalizing i j with
  | zero => omega
  | succ n ih =>
    have hlow := (readPart s c q o j).isLt
    cases i with
    | zero => simp only [readGroup, Nat.mul_zero, Nat.add_zero, Nat.pow_zero]; omega
    | succ i =>
      have hshift : readGroup s c q o j (n + 1) / 2 ^ 32 = readGroup s c q o (j + 1) n := by
        simp only [readGroup]; omega
      rw [Nat.mul_succ, Nat.add_comm (32 * i), Nat.pow_add, ← Nat.div_div_eq_div_mul, hshift,
        ih (j + 1) (by omega), Nat.add_right_comm, Nat.add_assoc]

theorem readGroup_lt (s : State) (c q : Nat) (o : Opnd) (j n : Nat) : readGroup s c q o j n < 2 ^ (32 * n) := by
  induction n generalizing j with
  | zero => simp [readGroup]
  | succ n ih =>
    have hlow := (readPart s c q o j).isLt
    have hhigh := ih (j + 1)
    rw [Nat.mul_succ, Nat.add_comm (32 * n), Nat.pow_add]
    simp only [readGroup]
    omega

theorem readGroup_zeroOpnd (s : State) (c q j n : Nat) : readGroup s c q .zero j n = 0 := by
  induction n generalizing j with
  | zero => rfl
  | succ n ih => simp [readGroup, readPart, ih]

theorem readSrc_digit (s : State) (c q : Nat) (o : Opnd) {n i : Nat} (h : i < n) :
    readSrc s c q o n / 2 ^ (32 * i) % 2 ^ 32 = (readPart s c q o i).toNat := by
  rw [readSrc, readGroup_digit s c q o 0 h, Nat.zero_add]

theorem readSrc_one (s : State) (c q : Nat) (o : Opnd) : readSrc s c q o 1 = (readWord s c q o).toNat := by
  simp [readSrc, readGroup, readWord]

theorem readSrc_lt (s : State) (c q : Nat) (o : Opnd) (n : Nat) : readSrc s c q o n < 2 ^ (32 * n) :=
  readGroup_lt s c q o 0 n

/-- No bit of a pair is lost in its 64-bit word. -/
theorem toNat_readPair (s : State) (c q : Nat) (o : Opnd) : (readPair s c q o).toNat = readSrc s c q o 2 := by
  rw [readPair, BitVec.toNat_ofNat, Nat.mod_eq_of_lt (readSrc_lt s c q o 2)]

/-! ## Bypass latches (R76, R77, R79) -/

/-- A valid latch holds the result itself; the registers do not enter. -/
theorem Thread.latch_of_valid {t : Thread} {n : Nat} {l : Latch} (h : t.latches[n]? = some l)
    (hv : l.valid = true) : t.latch n = some l.value := by
  simp [Thread.latch, h, hv]

/-- An invalid latch falls back to the register of its producer. -/
theorem Thread.latch_of_invalid {t : Thread} {n : Nat} {l : Latch} (h : t.latches[n]? = some l)
    (hv : l.valid = false) : t.latch n = l.src.map (SMap.get t.regs) := by
  simp [Thread.latch, h, hv]

theorem readWord_of_latch {s : State} {c q : Nat} {n : Fin 4} {w : Word}
    (h : (s.thread c q).latch n.val = some w) : readWord s c q (.k n) = w := by
  simp [readWord, readPart, h]

/-- Four shifts fill the latches, the most recent result first; what stood in them before is gone. -/
theorem Thread.latches_four_pushes (t : Thread) (a b c d : Latch) :
    ((((t.pushLatch d).pushLatch c).pushLatch b).pushLatch a).latches = [a, b, c, d] := by
  simp [Thread.pushLatch]

theorem Thread.latch_of_latches {u : Thread} {a b c d : Latch} (h : u.latches = [a, b, c, d]) (ha : a.valid = true)
    (hb : b.valid = true) (hc : c.valid = true) (hd : d.valid = true) :
    u.latch 0 = some a.value ∧ u.latch 1 = some b.value ∧ u.latch 2 = some c.value ∧ u.latch 3 = some d.value :=
  ⟨latch_of_valid (by simp [h]) ha, latch_of_valid (by simp [h]) hb, latch_of_valid (by simp [h]) hc,
    latch_of_valid (by simp [h]) hd⟩

/-! ## The obligation -/

/-- Settles O23: every source by the lemma of its kind; a latch read takes the stored result, which four shifts put in
its place and no write of a register can reach. -/
theorem latchKeepsTheNthMostRecentResult : Obligations.LatchKeepsTheNthMostRecentResult := by
  unfold Obligations.LatchKeepsTheNthMostRecentResult
  constructor
  · intro s c q
    refine ⟨fun _ => rfl, fun _ => rfl, fun n l hl => ⟨fun hv => ?valid, fun hv r hr => ?invalid⟩, rfl, rfl,
      readGroup_zeroOpnd s c q 0, fun k _ _ hi => readSrc_digit s c q (.v k) hi,
      fun k _ _ hi => readSrc_digit s c q (.s k) hi, fun o => ⟨readSrc_one s c q o, readSrc_lt s c q o,
        toNat_readPair s c q o, fun _ => ⟨rfl, rfl⟩⟩⟩
    case valid => exact readWord_of_latch (Thread.latch_of_valid hl hv)
    case invalid => exact readWord_of_latch (by rw [Thread.latch_of_invalid hl hv, hr, Option.map_some])
  · intro t a b c d ha hb hc hd
    have hfour := Thread.latches_four_pushes t a b c d
    exact ⟨Thread.latch_of_latches hfour ha hb hc hd, fun m => Thread.latch_of_latches hfour ha hb hc hd⟩

end Sys2Proof.Machine

/-! NOT, POPC and BREV: where form F keeps its form and opcode (R331, R334), what the field rules leave of a word of one
source, the bits of the three values, and the obligation on them (R380, R447, R452). -/

namespace Sys2Proof

/-! ## The word -/

/-- The form is the topmost of the word's fourteen fields. -/
theorem Encode.fForm_form (opc : BitVec 12) (f : FForm) : (Encode.fForm opc f).extractLsb' 94 2 = 0#2 := by
  unfold Encode.fForm
  iterate 13 refine (BitVec.extractLsb'_append_eq_of_le (by decide)).trans ?_
  exact BitVec.extractLsb'_eq_self

/-- Eleven fields stand below the opcode. -/
theorem Encode.fForm_opcode (opc : BitVec 12) (f : FForm) : (Encode.fForm opc f).extractLsb' 65 12 = opc := by
  unfold Encode.fForm
  iterate 11 refine (BitVec.extractLsb'_append_eq_of_le (by decide)).trans ?_
  exact (Laws.Enc.extract_below _ _ 12).trans BitVec.extractLsb'_eq_self

theorem Instr.encodingOk_of_wfThread {i : Instr} (h : i.wfThread = true) : i.encodingOk = true := by
  rw [Instr.wfThread, Bool.and_eq_true, Bool.and_eq_true] at h
  obtain ⟨⟨hok, -⟩, -⟩ := h
  exact hok

theorem FForm.zero_of_int1Ok {w : FForm} {tys : List Ty} {sat single : Bool} (h : w.int1Ok tys sat single = true) :
    w.b = .zero ∧ w.c = .zero := by
  rw [FForm.int1Ok, Bool.and_eq_true] at h
  obtain ⟨-, hunused⟩ := h
  simpa [FForm.unusedOk, Opnd.is452] using hunused

end Sys2Proof

namespace Sys2Proof.Machine

/-! ## The values -/

/-- n ones less a value of n bits take no borrow, so the subtraction complements each bit. -/
theorem testBit_intNot (t : Ty) (a k : Nat) : (intNot t a).testBit k = (decide (k < t.bits) && !a.testBit k) := by
  have hlt : a % 2 ^ t.bits < 2 ^ t.bits := Nat.mod_lt _ (Nat.two_pow_pos _)
  rw [intNot, Nat.sub_sub, Nat.add_comm 1, Nat.testBit_two_pow_sub_succ hlt, Nat.testBit_mod_two_pow]
  by_cases hk : k < t.bits <;> simp [hk]

theorem popCount_eq_length_filter (n a : Nat) :
    popCount n a = ((List.range n).filter (fun k => a.testBit k)).length := by
  induction n generalizing a with
  | zero => rfl
  | succ n ih =>
    rw [popCount, ih, List.range_succ_eq_map, List.filter_cons, List.filter_map, Nat.testBit_zero]
    have hshift : ((fun k => a.testBit k) ∘ Nat.succ) = fun k => (a / 2).testBit k :=
      funext fun k => Nat.testBit_succ a k
    rw [hshift]
    rcases Nat.mod_two_eq_zero_or_one a with h | h <;> simp [h, Nat.add_comm]

theorem popCount_le (n a : Nat) : popCount n a ≤ n := by
  rw [popCount_eq_length_filter]
  exact (List.length_filter_le _ _).trans_eq List.length_range

theorem bitReverse_lt (n a : Nat) : bitReverse n a < 2 ^ n := by
  induction n generalizing a with
  | zero => exact Nat.one_pos
  | succ n ih =>
    have hrest := ih (a / 2)
    have htop : a % 2 * 2 ^ n ≤ 1 * 2 ^ n := Nat.mul_le_mul_right _ (by omega)
    rw [bitReverse, Nat.pow_succ]
    omega

/-- The lowest bit of the source is the top bit of the result, and below it stands the reverse of the rest. -/
theorem testBit_bitReverse {n i : Nat} (a : Nat) (h : i < n) : (bitReverse n a).testBit i = a.testBit (n - 1 - i) := by
  induction n generalizing a with
  | zero => omega
  | succ n ih =>
    rw [bitReverse, Nat.mul_comm, Nat.testBit_two_pow_mul_add _ (bitReverse_lt n _)]
    split
    · next hi => rw [ih _ hi, ← Nat.testBit_succ, show (n - 1 - i).succ = n + 1 - 1 - i by omega]
    · next hi =>
      obtain rfl : i = n := by omega
      simp [Nat.testBit_zero]

/-! ## The obligation -/

/-- A word of one source completes with the function of its source. -/
theorem completes_of_intWord1 {i : Instr} {w : FForm} {n : Nat} {f : Nat → Nat}
    (hi : ∀ s, exec i s = .next (intWord1 i w n f s)) :
    Completes i always (putFixed w.d w.nwb n (fun s c q => (f (readSrc s c q w.a w.ty.regs), 0)))
      (skipFixed w.d w.nwb) :=
  completes_of_fixedWord w.d w.nwb n _ hi

/-- What R380, R447 and R452 say alike of their words. -/
theorem word_of_oneSource {i : Instr} {w : FForm} {opc : BitVec 12} {tys : List Ty} {sat single : Bool}
    (he : encode i = Encode.fForm opc w) (hok : i.encodingOk = w.int1Ok tys sat single) :
    (encode i).extractLsb' 94 2 = 0#2 ∧ (encode i).extractLsb' 65 12 = opc ∧
      (i.wfThread = true → w.b = .zero ∧ w.c = .zero) := by
  rw [he]
  exact ⟨Encode.fForm_form opc w, Encode.fForm_opcode opc w,
    fun h => FForm.zero_of_int1Ok (hok.symm.trans (Instr.encodingOk_of_wfThread h))⟩

theorem popc_uses_of_n64 {w : FForm} (h : w.ty = .n64) :
    (Instr.popc w).uses = [⟨0, w.d, 1, .dst⟩, ⟨1, w.a, 2, .src⟩] := by
  simp [Instr.uses, FForm.useD, FForm.useA, h, Ty.regs, Ty.is64]

/-- Settles O12: the word by its shape, its completion by that of the words of one source, and each value bit by bit. -/
theorem bitwiseWordsOfOneSource : Obligations.BitwiseWordsOfOneSource := by
  unfold Obligations.BitwiseWordsOfOneSource
  refine ⟨⟨fun w => word_of_oneSource rfl rfl, fun w => completes_of_intWord1 fun _ => rfl, testBit_intNot⟩,
    ⟨fun w => ?popcWord, fun w => completes_of_intWord1 fun _ => rfl,
      fun n a => ⟨popCount_eq_length_filter n a, popCount_le n a⟩⟩,
    ⟨fun w => word_of_oneSource rfl rfl, fun w => completes_of_intWord1 fun _ => rfl,
      fun n a i h => testBit_bitReverse a h, bitReverse_lt, rfl⟩⟩
  case popcWord =>
    obtain ⟨hform, hopc, hzero⟩ := word_of_oneSource (i := .popc w) rfl rfl
    exact ⟨hform, hopc, hzero, popc_uses_of_n64⟩

end Sys2Proof.Machine
